-- ==== Sys2Proof/Machine/Cells.lean ====
section
/-!
DEFINITION. Sparse storage: a list of (key, value) pairs with strictly rising keys.
-/

namespace Sys2Proof.Machine

/-- The canonical form: keys strictly rise. -/
abbrev Cells.wf {β : Type} (l : List (Nat × β)) : Prop :=
  l.Pairwise (fun x y => x.1 < y.1)

/-- The value listed for a key. -/
def Cells.get {β : Type} (k : Nat) : List (Nat × β) → Option β
  | [] => none
  | (a, b) :: rest => if a = k then some b else Cells.get k rest

/-- List `v` for the key `k`. -/
def Cells.put {β : Type} (k : Nat) (v : β) : List (Nat × β) → List (Nat × β)
  | [] => [(k, v)]
  | (a, b) :: rest =>
    if k < a then (k, v) :: (a, b) :: rest
    else if k = a then (k, v) :: rest
    else (a, b) :: Cells.put k v rest

/-- List nothing for the key `k`. -/
def Cells.erase {β : Type} (k : Nat) : List (Nat × β) → List (Nat × β)
  | [] => []
  | (a, b) :: rest => if a = k then Cells.erase k rest else (a, b) :: Cells.erase k rest

end Sys2Proof.Machine
end

