-- ==== Sys2Proof/Word.lean ====
section
/-!
DEFINITION. The widths of TRPE's values (00_scope R6, R8) and the two-valued levels of a pin (R9).
-/

namespace Sys2Proof

/-- A bus word, a register value, a pixel or a command word: 16 bits (00_scope R6, `WORD_BITS`). -/
abbrev Word := BitVec 16

/-- A register index, an interrupt-line selector or a byte of host memory: 8 bits. -/
abbrev Byte := BitVec 8

/-- A pointer, a count or a function reference: 32 bits (00_scope R7, `PTR_BITS`, `COUNT_BITS`). -/
abbrev DWord := BitVec 32

/-- The electrical level a pin latch holds, 0 or 1 (00_scope R9). -/
inductive Level where
  | low
  | high
  deriving DecidableEq, Repr

/-- The level as the bit the spec writes it as. -/
def Level.bit : Level → BitVec 1
  | .low => 0#1
  | .high => 1#1

/-- The level a bit stands for. -/
def Level.ofBit (b : BitVec 1) : Level :=
  if b = 1#1 then .high else .low

/-- The state of the backlight or LED output; its electrical level is `BL_ON_LEVEL` (00_scope R9). -/
inductive Lamp where
  | off
  | on
  deriving DecidableEq, Repr

end Sys2Proof
end

