-- ==== Sys2Proof/Config.lean ====
section
/-!
DEFINITION. What an implementation of TRPE fixes (00_scope R6, R7; 10_state R40; 41_init_sequencer R152) and the
values the spec leaves free (20_memory R86, R88).
The OPEN parameters are plain data, so that a claim about every state is a claim about every assignment of them.
-/

namespace Sys2Proof

/-- An opaque handle of the bus: `BUS_DATA_REG`, `BUS_TX_DREQ` (00_scope R7, D19). Never interpreted. -/
abbrev Handle := Nat

/-- The panel's horizontal size, `SCREEN_SIZE_X` (00_scope R6). -/
abbrev screenSizeX : Nat := 176

/-- The panel's vertical size, `SCREEN_SIZE_Y` (00_scope R6). -/
abbrev screenSizeY : Nat := 220

/-- The expected value of the driver-code register, `DEVICE_ID` (00_scope R6). -/
abbrev deviceId : Word := 0x9225#16

/-- The index of the soft-reset register, `IDX_SOFT_RESET`, the only individual index D0 gives (00_scope R6). -/
abbrev idxSoftReset : Byte := 0x28#8

/-- The value associated with the soft-reset register, `SOFT_RESET_MAGIC` (00_scope R6). -/
abbrev softResetMagic : Word := 0x00CE#16

/-- The entry-mode value the coordinate transform is valid for, `ENTRY_MODE_VALUE` (00_scope R6). -/
abbrev entryModeValue : Word := 0x1018#16

/-- The size of host memory in bytes, 2^`PTR_BITS` (00_scope R7, 20_memory R74). -/
abbrev hostMemorySize : Nat := 4294967296

/-- The named register indices of 10_state R40, an OPEN assignment (D32). -/
structure RegMap where
  driverCode : Byte
  driverOutputCtrl : Byte
  acDrivingCtrl : Byte
  entryMode : Byte
  dispCtrl : Byte
  porch : Byte
  frameCycle : Byte
  interfaceCtrl : Byte
  oscCtrl : Byte
  /-- `IDX_POWER_CTRL[1]` to `IDX_POWER_CTRL[5]`. -/
  powerCtrl1 : Byte
  powerCtrl2 : Byte
  powerCtrl3 : Byte
  powerCtrl4 : Byte
  powerCtrl5 : Byte
  vciRecycling : Byte
  /-- `IDX_RAM_ADDR[1]`, the horizontal one (D15). -/
  ramAddr1 : Byte
  /-- `IDX_RAM_ADDR[2]`, the vertical one (D15). -/
  ramAddr2 : Byte
  gramRw : Byte
  gateScan : Byte
  /-- `IDX_VSCROLL[k]`; the count is not D0's. -/
  vscroll : List Byte
  /-- `IDX_PARTIAL[k]`; the count is not D0's. -/
  partialDrive : List Byte
  hwinEnd : Byte
  hwinStart : Byte
  vwinEnd : Byte
  vwinStart : Byte
  /-- `IDX_GAMMA[1]` to `IDX_GAMMA[10]`. -/
  gamma : List Byte
  deriving DecidableEq, Repr

/-- `IDX_POWER_CTRL[1..5]` in ascending order of `k`. -/
def RegMap.powerCtrl (m : RegMap) : List Byte :=
  [m.powerCtrl1, m.powerCtrl2, m.powerCtrl3, m.powerCtrl4, m.powerCtrl5]

/-- The initialization tables of 41_init_sequencer R152, OPEN with constraints (D33). -/
structure InitTables where
  pwrOn : List (Byte × Word)
  boost : Word
  cfg : List (Byte × Word)
  gamma : List Word
  dispOn : Word
  deriving DecidableEq, Repr

/-- Which cursor step the far end takes (20_memory R86, D31): the OPEN function, about which nothing is known, or the
candidate of 93_implementation_defined G5, read from the bits of the entry mode. -/
inductive AdvanceRule where
  | free
  | entryModeBits
  deriving DecidableEq, Repr

/-- The parameters of the model (00_scope R7; `PANEL_GENUINE` of 20_memory R88). No step changes them. -/
structure Config where
  readSupport : Bool
  hasLedPin : Bool
  blOnLevel : Level
  fifoDepth : Nat
  irqLines : List Byte
  idx : RegMap
  init : InitTables
  advance : AdvanceRule
  readDummy : Word
  busDataReg : Handle
  busTxDreq : Handle
  panelGenuine : Bool
  deriving DecidableEq, Repr

/-- The four bounds of the write window, in the order of 20_memory R80. -/
structure Window where
  hs : Word
  he : Word
  vs : Word
  ve : Word
  deriving DecidableEq, Repr

/-- The GRAM cursor `(h, v)` (20_memory R80). -/
structure Cursor where
  h : Word
  v : Word
  deriving DecidableEq, Repr, Inhabited

/-- FREE VALUE: the OPEN `AdvanceCursor` of 20_memory R86 (log 8). -/
opaque Config.openAdvance : Word → Window → Cursor → Cursor

/-- FREE VALUE: the word the far end drives in the `n`-th read, where no law fixes it (20_memory R88, 93 U6; log 9). -/
opaque Config.freeRead : Nat → Word

/-- The default register indices (10_state R40, 93 G1). PRESUMED, log 6. -/
def RegMap.standard : RegMap where
  driverCode := 0x00#8
  driverOutputCtrl := 0x01#8
  acDrivingCtrl := 0x02#8
  entryMode := 0x03#8
  dispCtrl := 0x07#8
  porch := 0x08#8
  frameCycle := 0x0B#8
  interfaceCtrl := 0x0C#8
  oscCtrl := 0x0F#8
  powerCtrl1 := 0x10#8
  powerCtrl2 := 0x11#8
  powerCtrl3 := 0x12#8
  powerCtrl4 := 0x13#8
  powerCtrl5 := 0x14#8
  vciRecycling := 0x15#8
  ramAddr1 := 0x20#8
  ramAddr2 := 0x21#8
  gramRw := 0x22#8
  gateScan := 0x30#8
  vscroll := [0x31#8, 0x32#8, 0x33#8]
  partialDrive := [0x34#8, 0x35#8]
  hwinEnd := 0x36#8
  hwinStart := 0x37#8
  vwinEnd := 0x38#8
  vwinStart := 0x39#8
  gamma := [0x50#8, 0x51#8, 0x52#8, 0x53#8, 0x54#8, 0x55#8, 0x56#8, 0x57#8, 0x58#8, 0x59#8]

/-- The default initialization tables (93 G3). PRESUMED, log 6. -/
def InitTables.standard : InitTables where
  pwrOn := [(0x11#8, 0x0018#16), (0x12#8, 0x6121#16), (0x13#8, 0x006F#16), (0x14#8, 0x495F#16), (0x10#8, 0x0800#16)]
  boost := 0x103B#16
  cfg :=
    [(0x01#8, 0x011C#16), (0x02#8, 0x0100#16), (0x03#8, 0x1018#16), (0x07#8, 0x0000#16), (0x08#8, 0x0808#16),
      (0x0B#8, 0x1100#16), (0x0C#8, 0x0000#16), (0x0F#8, 0x0D01#16), (0x15#8, 0x0020#16)] ++
    [(0x20#8, 0x0000#16), (0x21#8, 0x0000#16), (0x30#8, 0x0000#16), (0x31#8, 0x00DB#16), (0x32#8, 0x0000#16),
      (0x33#8, 0x0000#16), (0x34#8, 0x00DB#16), (0x35#8, 0x0000#16)] ++
    [(0x36#8, 0x00AF#16), (0x37#8, 0x0000#16), (0x38#8, 0x00DB#16), (0x39#8, 0x0000#16)]
  gamma := [0x0000#16, 0x0808#16, 0x080A#16, 0x000A#16, 0x0A08#16, 0x0808#16, 0x0000#16, 0x0A00#16, 0x0710#16, 0x0710#16]
  dispOn := 0x1017#16

/-- The parameters at their defaults (00_scope R7) and the conventions of 95_test_vectors. PRESUMED, logs 6 and 8. -/
def Config.standard : Config where
  readSupport := false
  hasLedPin := false
  blOnLevel := .high
  fifoDepth := 8
  irqLines := [0#8, 1#8]
  idx := RegMap.standard
  init := InitTables.standard
  advance := .free
  readDummy := 0x0000#16
  busDataReg := 1
  busTxDreq := 2
  panelGenuine := false

end Sys2Proof
end

