-- ==== Sys2Proof/Syntax.lean ====
section
/-!
DEFINITION. The instructions of spec/opcode_table.json as syntax: the 17 commands of 30_encoding R106 and the three
wire items of R100, and the coded form of each.
-/

namespace Sys2Proof

/-- One constructor per row of spec/opcode_table.json. -/
inductive Instr where
  /-- WRIDX a (40 R130). -/
  | wridx (a : Byte)
  /-- WRDAT v (40 R131). -/
  | wrdat (v : Word)
  /-- SETREG a, v (40 R132). -/
  | setreg (a : Byte) (v : Word)
  /-- GETREG a (40 R133). -/
  | getreg (a : Byte)
  /-- SETWIN hs, he, vs, ve (42 R170). -/
  | setwin (hs he vs ve : Word)
  /-- SETADDR x, y (42 R171). -/
  | setaddr (x y : Word)
  /-- PXSTART (43 R200). -/
  | pxstart
  /-- PXWORD w (43 R201). -/
  | pxword (w : Word)
  /-- PXEND (43 R202). -/
  | pxend
  /-- WRPIX src, n (43 R203). -/
  | wrpix (src n : DWord)
  /-- DMAWR src, n (43 R206). -/
  | dmawr (src n : DWord)
  /-- FILL color (42 R177). -/
  | fill (color : Word)
  /-- FILLRECT x, y, w, h, color (42 R178). -/
  | fillrect (x y w h color : Word)
  /-- BLIT x, y, w, h, src (42 R179). -/
  | blit (x y w h : Word) (src : DWord)
  /-- INIT (41 R150). -/
  | init
  /-- SETCB line, fn (43 R208). -/
  | setcb (line : Byte) (fn : DWord)
  /-- WAITCB (43 R209). -/
  | waitcb
  /-- W-IDX: an index word on the wire (30 R100). -/
  | wIdx (a : Byte)
  /-- W-DAT: a data or pixel word on the wire, sent by the engine (30 R100). -/
  | wDat (d : Word)
  /-- W-RD: a word on the wire driven by the far end (30 R100). -/
  | wRd (v : Word)
  deriving DecidableEq, Repr

/-- Which way a wire item travels: W-RD is told from W-DAT "by direction, not by bits" (spec/opcode_table.json). -/
inductive Direction where
  | sent
  | received
  deriving DecidableEq, Repr

/-- The coded form of an instruction: command words (30 R102), or one 17-bit wire item with its direction (30 R100). -/
inductive Code where
  | command (words : List Word)
  | wire (dir : Direction) (item : BitVec 17)
  deriving DecidableEq, Repr

/-- Whether an instruction is a command of the stream (30 R106), not a wire item (30 R100). -/
def Instr.isCommand : Instr → Bool
  | .wridx _ => true
  | .wrdat _ => true
  | .setreg _ _ => true
  | .getreg _ => true
  | .setwin _ _ _ _ => true
  | .setaddr _ _ => true
  | .pxstart => true
  | .pxword _ => true
  | .pxend => true
  | .wrpix _ _ => true
  | .dmawr _ _ => true
  | .fill _ => true
  | .fillrect _ _ _ _ _ => true
  | .blit _ _ _ _ _ => true
  | .init => true
  | .setcb _ _ => true
  | .waitcb => true
  | .wIdx _ => false
  | .wDat _ => false
  | .wRd _ => false

end Sys2Proof
end

