-- ==== Sys2Proof/Machine/State.lean ====
section
/-!
DEFINITION. The state of the machine as plain data: the engine (10_state R30), the far end (20_memory R80), and the
inputs a step reads (command stream, host memory, parameters, schedule); the trace (00_scope R11); why a step stops.
-/

namespace Sys2Proof.Machine

/-- The pin latches that hold a level (10_state R31). -/
inductive Pin where
  | cs
  | rs
  | rst
  deriving DecidableEq, Repr

/-- The pin latches that are on or off (10_state R31). -/
inductive LampPin where
  | bl
  | led
  deriving DecidableEq, Repr

/-- The contract violations of 60_exceptions R241. -/
inductive Violation where
  | illegal
  | unsupported
  | busy
  | frame
  | noinit
  | irqline
  | buffer
  | window
  | nocb
  deriving DecidableEq, Repr

/-- The events of the trace (00_scope R11). -/
inductive Event where
  /-- `PIN(p, l)` for CS, RS, RST. -/
  | pin (p : Pin) (l : Level)
  /-- `PIN(p, l)` for BL, LED. -/
  | lamp (p : LampPin) (l : Lamp)
  /-- `TX(r, w)`. -/
  | tx (r : Level) (w : Word)
  /-- `RX(r, w)`. -/
  | rx (r : Level) (w : Word)
  /-- `DELAY(ms)`: a lower bound, no duration (00_scope R14). -/
  | delay (ms : Nat)
  /-- `MR(a, w)`. -/
  | memRead (a : Nat) (w : Word)
  /-- `DMA_START(src, n)`. -/
  | dmaStart (src n : DWord)
  /-- `IRQ_RAISE(line)`. -/
  | irqRaise (line : Byte)
  /-- `IRQ_CLEAR(line)`. -/
  | irqClear (line : Byte)
  /-- `CALLBACK(fn)`. -/
  | callback (fn : DWord)
  /-- `FAULT(code)`: a contract violation was recorded. -/
  | violation (v : Violation)
  deriving DecidableEq, Repr

/-- The DMA state machine's states (10_state R32). -/
inductive DState where
  | idle
  | framed
  | armed
  | completing
  deriving DecidableEq, Repr

/-- The far end (20_memory R80, R81): a cell not listed, or none, is *unknown*.
`reg` is keyed by the register index, `gram` by `220 * h + v`; both lists have strictly rising keys. -/
structure Panel where
  ir : Option Byte
  reg : List (Nat × Word)
  gram : List (Nat × Word)
  curH : Option Word
  curV : Option Word
  deriving DecidableEq, Repr

/-- Nothing is known of the far end (20_memory R81, R87). -/
def Panel.unknown : Panel where
  ir := none
  reg := []
  gram := []
  curH := none
  curV := none

/-- One turn of an agent (00_scope R15); which comes when is an input (log 3). -/
inductive Turn where
  /-- HOST: fetch the next command and hand it to the ENGINE (10_state R33). -/
  | host
  /-- HOST in interrupt context: its callback goes on to issue `words`, after those it issued before, and the ENGINE
  is handed the first command of them (60 R250, R251; log 18). -/
  | callback (words : List Word)
  /-- DMA: `DmaPush` (43 R211). -/
  | dmaPush
  /-- SHIFTER: `Shift` (43 R212). -/
  | shift
  /-- IRQ: `DmaDone` (43 R213). -/
  | dmaDone
  /-- IRQ: `IrqHandler` (43 R214). -/
  | irqHandler
  /-- HOST: store one 16-bit element of host memory (20_memory R76; log 11). -/
  | hostStore (elem : BitVec 31) (v : Word)
  /-- PANEL: drive the word of a read in progress (20_memory R88; log 14). -/
  | panelDrives (v : Word)
  deriving DecidableEq, Repr

/-- The two contexts commands are issued from (60 R251): the calling thread, and the callback in interrupt context. -/
inductive Context where
  | thread
  | interrupt
  deriving DecidableEq, Repr

/-- How far the WAITCB a context is in has come (43 R209; log 19): there is none, it was admitted and holds, or the
`IrqHandler` step lifted it and it is about to return. -/
inductive Wait where
  | none
  | holding
  | lifted
  deriving DecidableEq, Repr

/-- The `IrqHandler` step lifts a WAITCB that holds (43 R209, D35). -/
def Wait.lift : Wait → Wait
  | .none => .none
  | .holding => .lifted
  | .lifted => .lifted

/-- The state of the machine. -/
structure State where
  /-- The parameters; no step changes them (log 1). -/
  cfg : Config
  /-- The command stream (10_state R33; logs 1 and 5). -/
  prog : List Word
  /-- Host memory, in canonical form (`Memory.wf`); 20_memory R74. -/
  mem : List Host.Cell
  /-- The turns that come next (log 3). -/
  turns : List Turn
  /-- The round that follows when `turns` is used up (log 3). -/
  cycle : List Turn
  /-- The command-stream index (10_state R33). -/
  cpc : Nat
  /-- The command words the callback has issued and the ENGINE has not done with (60 R250, R251; log 18). -/
  cbProg : List Word
  /-- How far the WAITCB that the calling thread is in has come (43 R209; log 19). -/
  wait : Wait
  /-- The same of the callback (43 R209, 60 R251; log 19). -/
  cbWait : Wait
  cs : Level
  rs : Level
  rst : Level
  bl : Lamp
  led : Lamp
  dstate : DState
  frameOpen : Bool
  tdCfg : Bool
  tdWidth : Nat
  tdDst : Handle
  tdDreq : Handle
  tdSrc : DWord
  tdCount : DWord
  tdRem : DWord
  cbValid : Bool
  cbFn : DWord
  cbLine : Byte
  irqPending : Bool
  /-- The pixel-shift FIFO, its head first (10_state R38). -/
  fifo : List Word
  err : Bool
  errCode : Byte
  result : DWord
  /-- The far end (20_memory R80). -/
  panel : Panel
  /-- The trace T, newest event first (00_scope R11; log 2). -/
  traceRev : List Event
  /-- How many words reads have drawn: the free values' counter (log 9). -/
  draws : Nat
  deriving DecidableEq, Repr

/-- The trace T in the order of its events (00_scope R11). -/
def State.trace (s : State) : List Event :=
  s.traceRev.reverse

/-- Why the machine stops with a fault. -/
inductive Fault where
  /-- The precondition `s.cs = 0` of `Tx` fails (00_scope R12): raised by PXWORD and by the SHIFTER in a state in which
  a word would be shifted out, and by a wire item, while CS is high. Safe; no run from reset reaches it (log 16). -/
  | wordWhileDeselected
  /-- A wire item W-IDX, W-DAT or W-RD meets an RS latch at the other level than its own bit 16 (30 R100).
  Safe; no run from reset reaches it (log 16). -/
  | wordAgainstRs
  deriving DecidableEq, Repr

/-- Why a step has no meaning. -/
inductive Refusal where
  /-- An arm of `exec` without a meaning. Safe. -/
  | notModelled (mnemonic : String)
  /-- W-RD without `READ_SUPPORT`: the data-in line does not exist (30 R100; 90_conflicts C4). Safe (log 17). -/
  | noDataInLine
  deriving DecidableEq, Repr

/-- A round in which every agent has a turn (log 3). -/
def fairCycle : List Turn :=
  [.host, .dmaPush, .shift, .dmaDone, .irqHandler]

/-- The machine right after engine power-on reset (10_state R45, 70 R270) under the parameters `c`; the descriptor's
fixed fields, unspecified there, hold 0 (log 7); reset inside a run is left out (log 22). -/
def State.resetWith (c : Config) : State where
  cfg := c
  prog := []
  mem := []
  turns := []
  cycle := fairCycle
  cpc := 0
  cbProg := []
  wait := .none
  cbWait := .none
  cs := .high
  rs := .low
  rst := .high
  bl := .off
  led := .off
  dstate := .idle
  frameOpen := false
  tdCfg := false
  tdWidth := 0
  tdDst := 0
  tdDreq := 0
  tdSrc := 0#32
  tdCount := 0#32
  tdRem := 0#32
  cbValid := false
  cbFn := 0#32
  cbLine := 0#8
  irqPending := false
  fifo := []
  err := false
  errCode := 0#8
  result := 0#32
  panel := Panel.unknown
  traceRev := []
  draws := 0

/-- The machine right after reset, with the parameters at their defaults (log 6). -/
def State.reset : State :=
  State.resetWith Config.standard

end Sys2Proof.Machine
end

