-- ==== Sys2Proof/Machine/FarEnd.lean ====
section
/-!
DEFINITION. The far-end reference model (20_memory R80 to R88), with the treatments of 93_implementation_defined
U3, U4, U6, U8 (log 13) and U10 (log 12): what is not defined becomes unknown.
-/

namespace Sys2Proof.Machine

/-- `P.reg[i]`, if known (20_memory R80). -/
def Panel.readReg (p : Panel) (i : Byte) : Option Word :=
  Cells.get i.toNat p.reg

/-- Whether a position is on the screen, where 20_memory R80 has a GRAM cell (R84). -/
def onScreen (cur : Cursor) : Bool :=
  decide (cur.h.toNat < screenSizeX) && decide (cur.v.toNat < screenSizeY)

/-- The key of the GRAM cell `(h, v)`; it tells cells apart on the screen only (log 30). -/
def gramKey (h v : Word) : Nat :=
  screenSizeY * h.toNat + v.toNat

/-- `P.gram[h][v]`, if known (20_memory R80). Off the screen (`h >= 176` or `v >= 220`) R80 has no cell and gives the
read no meaning; DESIGN CHOICE, log 30 (safe): such a position reads as unknown, and no step reads one. -/
def Panel.readGram (p : Panel) (h v : Word) : Option Word :=
  if onScreen ⟨h, v⟩ then Cells.get (gramKey h v) p.gram else none

/-- `P.win`, read from the four window-bound registers (20_memory R80). -/
def Panel.win (c : Config) (p : Panel) : Option Window :=
  match p.readReg c.idx.hwinStart, p.readReg c.idx.hwinEnd, p.readReg c.idx.vwinStart, p.readReg c.idx.vwinEnd with
  | some hs, some he, some vs, some ve => some ⟨hs, he, vs, ve⟩
  | _, _, _, _ => none

/-- `P.cur`, when both of its parts are known (20_memory R80). -/
def Panel.cur (p : Panel) : Option Cursor :=
  match p.curH, p.curV with
  | some h, some v => some ⟨h, v⟩
  | _, _ => none

/-- One counter of the candidate cursor step: it steps in its direction inside its bounds, and on passing a bound
returns to the opposite one and reports that it passed (93 G5). -/
def stepCounter (increment : Bool) (lo hi x : Word) : Word × Bool :=
  if increment then
    if x < hi then (x + 1#16, false) else (lo, true)
  else
    if lo < x then (x - 1#16, false) else (hi, true)

/-- The candidate `AdvanceCursor` of 93 G5: bit 4 is the horizontal direction, bit 5 the vertical one, bit 3 which
counter steps first. PRESUMED; it runs only where the parameter chooses it (log 8). -/
def candidateAdvance (mode : Word) (win : Window) (cur : Cursor) : Cursor :=
  let hStep := stepCounter (mode.getLsbD 4) win.hs win.he cur.h
  let vStep := stepCounter (mode.getLsbD 5) win.vs win.ve cur.v
  if mode.getLsbD 3 then ⟨if vStep.2 then hStep.1 else cur.h, vStep.1⟩
  else ⟨hStep.1, if hStep.2 then vStep.1 else cur.v⟩

/-- `AdvanceCursor`, the OPEN parameter of 20_memory R86. -/
def advanceCursor (rule : AdvanceRule) : Word → Window → Cursor → Cursor :=
  match rule with
  | .free => Config.openAdvance
  | .entryModeBits => candidateAdvance

/-- The cursor is lost (20_memory R81). -/
def Panel.loseCursor (p : Panel) : Panel :=
  { p with curH := none, curV := none }

/-- The cursor and every GRAM cell become unknown (93 U4). -/
def Panel.losePixels (p : Panel) : Panel :=
  { p with gram := [], curH := none, curV := none }

/-- `P.cur <- AdvanceCursor(P.reg[IDX_ENTRY_MODE], P.win, P.cur)`; an unknown entry mode or bound gives no value
(20_memory R81, R84; 93 U8). -/
def Panel.advance (c : Config) (cur : Cursor) (p : Panel) : Panel :=
  match p.readReg c.idx.entryMode, p.win c with
  | some mode, some win =>
    let next := advanceCursor c.advance mode win cur
    { p with curH := some next.h, curV := some next.v }
  | _, _ => p.loseCursor

/-- Effect of a pixel word (20_memory R84; 93 U4 where the cursor is unknown or off the screen). -/
def Panel.pixelWord (c : Config) (w : Word) (p : Panel) : Panel :=
  match p.cur with
  | none => p.losePixels
  | some cur =>
    if onScreen cur then
      Panel.advance c cur { p with gram := Cells.put (gramKey cur.h cur.v) w p.gram }
    else p.losePixels

/-- Effect of a data word to the register `i` (20_memory R83; logs 25 and 26). The soft-reset write is treated as the
reset pulse, one of the two treatments of 93 U10: DESIGN CHOICE, log 12. -/
def Panel.registerWord (c : Config) (i : Byte) (w : Word) (p : Panel) : Panel :=
  if i = idxSoftReset ∧ w = softResetMagic then Panel.unknown
  else
    { p with
      reg := Cells.put i.toNat w p.reg
      curH := if i = c.idx.ramAddr1 then some w else p.curH
      curV := if i = c.idx.ramAddr2 then some w else p.curV }

/-- Effect of an index frame (20_memory R82). -/
def Panel.latchIndex (w : Word) (p : Panel) : Panel :=
  { p with ir := some (w.extractLsb' 0 8) }

/-- Effect of a data word: a pixel, a register write, or, with the index latch unknown, the loss of every register,
cell and the cursor (20_memory R83, R84; 93 U3). -/
def Panel.dataWord (c : Config) (w : Word) (p : Panel) : Panel :=
  match p.ir with
  | none => Panel.unknown
  | some i => if i = c.idx.gramRw then Panel.pixelWord c w p else Panel.registerWord c i w p

/-- The far end consumes the event `TX(r, w)` (20_memory R82 to R84). -/
def Panel.consume (c : Config) (r : Level) (w : Word) (p : Panel) : Panel :=
  match r with
  | .low => p.latchIndex w
  | .high => Panel.dataWord c w p

/-- The far end's side of a read: the cursor is lost when the latched index is, or may be, the GRAM register (93 U6). -/
def Panel.afterRead (c : Config) (p : Panel) : Panel :=
  match p.ir with
  | none => p.loseCursor
  | some i => if i = c.idx.gramRw then p.loseCursor else p

/-- The word the far end drives in a read: free, but for the driver code of a genuine panel (20_memory R88). The
draw is a function of the counter and of nothing the far end holds: DESIGN CHOICE, log 9. -/
def Panel.readAnswer (c : Config) (draws : Nat) (p : Panel) : Word :=
  if c.panelGenuine = true ∧ p.ir = some c.idx.driverCode then deviceId else Config.freeRead draws

end Sys2Proof.Machine
end

