-- ==== Sys2Proof/Machine/Flags.lean ====
section
/-!
DEFINITION. The fault codes (60_exceptions R241) and the status port (10_state R41).
-/

namespace Sys2Proof.Machine

/-- The numeric code of a contract violation (60 R241). -/
def Violation.code : Violation → Byte
  | .illegal => 1#8
  | .unsupported => 2#8
  | .busy => 3#8
  | .frame => 4#8
  | .noinit => 5#8
  | .irqline => 6#8
  | .buffer => 7#8
  | .window => 8#8
  | .nocb => 9#8

/-- The encoding of `dstate` on the status port (10_state R32, D2). -/
def DState.bits : DState → BitVec 2
  | .idle => 0#2
  | .framed => 1#2
  | .armed => 2#2
  | .completing => 3#2

def Lamp.bit : Lamp → BitVec 1
  | .off => 0#1
  | .on => 1#1

/-- `S0` bit 4: 0 when `HAS_LED_PIN` is false (10_state R41). -/
def State.ledBit (s : State) : BitVec 1 :=
  if s.cfg.hasLedPin then Lamp.bit s.led else 0#1

/-- `S0`, STATUS, from bit 31 down to bit 0 (10_state R41). -/
def State.statusWord (s : State) : DWord :=
  0#20 ++ BitVec.ofBool s.err ++ BitVec.ofBool s.tdCfg ++ BitVec.ofBool s.cbValid ++ BitVec.ofBool s.irqPending ++
    s.dstate.bits ++ BitVec.ofBool s.frameOpen ++ s.ledBit ++ Lamp.bit s.bl ++ s.rst.bit ++ s.rs.bit ++ s.cs.bit

/-- The nine registers of the status port (10_state R41). -/
inductive StatusReg where
  | s0 | s1 | s2 | s3 | s4 | s5 | s6 | s7 | s8
  deriving DecidableEq, Repr

/-- What the HOST reads from the status port: at any time, with no side effect (10_state R41, 60 R244). -/
def State.readStatus (s : State) : StatusReg → DWord
  | .s0 => s.statusWord
  | .s1 => s.errCode.setWidth 32
  | .s2 => s.result
  | .s3 => s.tdSrc
  | .s4 => s.tdCount
  | .s5 => s.tdRem
  | .s6 => s.cbFn
  | .s7 => s.cbLine.setWidth 32
  | .s8 => deviceId.setWidth 32

/-- The level opposite to another. -/
def Level.opposite : Level → Level
  | .low => .high
  | .high => .low

/-- The electrical level of the backlight output: `BL_ON_LEVEL` when on (10_state R31). The LED output is given the same
polarity, which the spec leaves open: DESIGN CHOICE, log 28. -/
def lampLevel (c : Config) : Lamp → Level
  | .on => c.blOnLevel
  | .off => Level.opposite c.blOnLevel

end Sys2Proof.Machine
end

