-- ==== Sys2Proof/Decode.lean ====
section
/-!
DEFINITION. Decoding of command words and wire items, total and rejecting by name (30_encoding R100 to R108), and the
encoder, written from the same tables.
-/

namespace Sys2Proof

/-- `c[0][15:8]`, the opcode (30 R102). -/
def opField (c0 : Word) : Byte :=
  c0.extractLsb' 8 8

/-- `c[0][7:0]`, the 8-bit immediate (30 R102). -/
def immField (c0 : Word) : Byte :=
  c0.extractLsb' 0 8

/-- The first word of a command: `op ++ a` (30 R102). -/
def firstWord (op a : Byte) : Word :=
  op ++ a

/-- Bits 15:0 of a 32-bit operand, its first operand word (30 R105, D29). -/
def lowHalf (d : DWord) : Word :=
  d.extractLsb' 0 16

/-- Bits 31:16 of a 32-bit operand, its second operand word (30 R105, D29). -/
def highHalf (d : DWord) : Word :=
  d.extractLsb' 16 16

/-- `c[k+1] ++ c[k]`: a 32-bit operand from its two words, low half first (30 R105). -/
def joinHalves (lo hi : Word) : DWord :=
  hi ++ lo

/-- Why a command is illegal (30 R103, R107). -/
inductive Illegal where
  /-- The opcode is in no row of 30 R106. -/
  | undefinedOpcode
  /-- The opcode's reserved low byte is not zero. -/
  | reservedByte
  /-- The command stream ends inside the command. -/
  | truncated
  deriving DecidableEq, Repr

/-- What the decoder reads from the words that remain in the command stream. -/
inductive Decoded where
  /-- No word remains. -/
  | nothing
  /-- A command and its length in words. -/
  | command (i : Instr) (len : Nat)
  /-- An illegal command, why, and how many words it consumes. -/
  | illegal (why : Illegal) (len : Nat)
  deriving DecidableEq, Repr

/-- The opcodes of 30 R106. -/
inductive Opcode where
  | wridx | wrdat | setreg | getreg | setwin | setaddr | pxstart | pxword | pxend | wrpix | dmawr | fill | fillrect
  | blit | init | setcb | waitcb
  deriving DecidableEq, Repr

/-- The `op` column of 30 R106. -/
def Opcode.byte : Opcode → Byte
  | .wridx => 0x01#8
  | .wrdat => 0x02#8
  | .setreg => 0x03#8
  | .getreg => 0x04#8
  | .setwin => 0x10#8
  | .setaddr => 0x11#8
  | .pxstart => 0x20#8
  | .pxword => 0x21#8
  | .pxend => 0x22#8
  | .wrpix => 0x23#8
  | .dmawr => 0x24#8
  | .fill => 0x30#8
  | .fillrect => 0x31#8
  | .blit => 0x32#8
  | .init => 0x40#8
  | .setcb => 0x41#8
  | .waitcb => 0x42#8

/-- The `op` column of 30 R106 read backwards; every other opcode is undefined (30 R107). -/
def Opcode.ofByte (b : Byte) : Option Opcode :=
  match b.toNat with
  | 0x01 => some .wridx
  | 0x02 => some .wrdat
  | 0x03 => some .setreg
  | 0x04 => some .getreg
  | 0x10 => some .setwin
  | 0x11 => some .setaddr
  | 0x20 => some .pxstart
  | 0x21 => some .pxword
  | 0x22 => some .pxend
  | 0x23 => some .wrpix
  | 0x24 => some .dmawr
  | 0x30 => some .fill
  | 0x31 => some .fillrect
  | 0x32 => some .blit
  | 0x40 => some .init
  | 0x41 => some .setcb
  | 0x42 => some .waitcb
  | _ => none

/-- The `len` column of 30 R106. -/
def Opcode.len : Opcode → Nat
  | .wridx => 1
  | .wrdat => 2
  | .setreg => 2
  | .getreg => 1
  | .setwin => 5
  | .setaddr => 3
  | .pxstart => 1
  | .pxword => 2
  | .pxend => 1
  | .wrpix => 5
  | .dmawr => 5
  | .fill => 2
  | .fillrect => 6
  | .blit => 7
  | .init => 1
  | .setcb => 3
  | .waitcb => 1

/-- Whether the low byte of the first word is an operand (mask 0xFF00) or reserved, zero (mask 0xFFFF) (30 R106). -/
def Opcode.hasImm : Opcode → Bool
  | .wridx => true
  | .wrdat => false
  | .setreg => true
  | .getreg => true
  | .setwin => false
  | .setaddr => false
  | .pxstart => false
  | .pxword => false
  | .pxend => false
  | .wrpix => false
  | .dmawr => false
  | .fill => false
  | .fillrect => false
  | .blit => false
  | .init => false
  | .setcb => true
  | .waitcb => false

/-- The instruction of an opcode, its immediate and the operand words that follow (30 R105, R106): none when fewer
words follow than the opcode takes. -/
def Opcode.assemble (op : Opcode) (a : Byte) (operands : List Word) : Option Instr :=
  match op, operands with
  | .wridx, _ => some (.wridx a)
  | .wrdat, v :: _ => some (.wrdat v)
  | .setreg, v :: _ => some (.setreg a v)
  | .getreg, _ => some (.getreg a)
  | .setwin, hs :: he :: vs :: ve :: _ => some (.setwin hs he vs ve)
  | .setaddr, x :: y :: _ => some (.setaddr x y)
  | .pxstart, _ => some .pxstart
  | .pxword, w :: _ => some (.pxword w)
  | .pxend, _ => some .pxend
  | .wrpix, sl :: sh :: nl :: nh :: _ => some (.wrpix (joinHalves sl sh) (joinHalves nl nh))
  | .dmawr, sl :: sh :: nl :: nh :: _ => some (.dmawr (joinHalves sl sh) (joinHalves nl nh))
  | .fill, color :: _ => some (.fill color)
  | .fillrect, x :: y :: w :: h :: color :: _ => some (.fillrect x y w h color)
  | .blit, x :: y :: w :: h :: sl :: sh :: _ => some (.blit x y w h (joinHalves sl sh))
  | .init, _ => some .init
  | .setcb, fl :: fh :: _ => some (.setcb a (joinHalves fl fh))
  | .waitcb, _ => some .waitcb
  | _, _ => none

/-- Decoding of the words that remain in the command stream (30 R103, R107): the first word's row, then the row's
operand words; a word of no row is illegal with length 1; a command cut off by the end of the stream is illegal and
consumes what remains. -/
def decodeCommand : List Word → Decoded
  | [] => .nothing
  | c0 :: rest =>
    match Opcode.ofByte (opField c0) with
    | none => .illegal .undefinedOpcode 1
    | some op =>
      if op.hasImm = false ∧ immField c0 ≠ 0#8 then .illegal .reservedByte 1
      else
        match op.assemble (immField c0) rest with
        | none => .illegal .truncated (rest.length + 1)
        | some i => .command i op.len

/-- A 17-bit wire item: the RS level, then the word (30 R100). -/
def wireItem (r : Level) (w : Word) : BitVec 17 :=
  r.bit ++ w

/-- The RS level of a wire item. -/
def itemLevel (item : BitVec 17) : Level :=
  Level.ofBit (item.extractLsb' 16 1)

/-- The word of a wire item. -/
def itemWord (item : BitVec 17) : Word :=
  item.extractLsb' 0 16

/-- Decoding of a wire item (30 R100): an index word has `w[15:8] = 0`. -/
def decodeWire (dir : Direction) (item : BitVec 17) : Option Instr :=
  match dir, itemLevel item with
  | .sent, .low => if opField (itemWord item) = 0#8 then some (.wIdx (immField (itemWord item))) else none
  | .sent, .high => some (.wDat (itemWord item))
  | .received, .low => none
  | .received, .high => some (.wRd (itemWord item))

/-- Decoding of a coded instruction that stands alone: a command with exactly its own words, or a wire item. -/
def decode : Code → Option Instr
  | .command words =>
    match decodeCommand words with
    | .command i len => if words.length = len then some i else none
    | .nothing => none
    | .illegal _ _ => none
  | .wire dir item => decodeWire dir item

/-- The index word on the wire: `zext_16(addr)` (30 R101). -/
def indexWord (a : Byte) : Word :=
  a.setWidth 16

/-- The coded form of an instruction (30 R100, R105, R106). -/
def encode : Instr → Code
  | .wridx a => .command [firstWord 0x01#8 a]
  | .wrdat v => .command [0x0200#16, v]
  | .setreg a v => .command [firstWord 0x03#8 a, v]
  | .getreg a => .command [firstWord 0x04#8 a]
  | .setwin hs he vs ve => .command [0x1000#16, hs, he, vs, ve]
  | .setaddr x y => .command [0x1100#16, x, y]
  | .pxstart => .command [0x2000#16]
  | .pxword w => .command [0x2100#16, w]
  | .pxend => .command [0x2200#16]
  | .wrpix src n => .command [0x2300#16, lowHalf src, highHalf src, lowHalf n, highHalf n]
  | .dmawr src n => .command [0x2400#16, lowHalf src, highHalf src, lowHalf n, highHalf n]
  | .fill color => .command [0x3000#16, color]
  | .fillrect x y w h color => .command [0x3100#16, x, y, w, h, color]
  | .blit x y w h src => .command [0x3200#16, x, y, w, h, lowHalf src, highHalf src]
  | .init => .command [0x4000#16]
  | .setcb line fn => .command [firstWord 0x41#8 line, lowHalf fn, highHalf fn]
  | .waitcb => .command [0x4200#16]
  | .wIdx a => .wire .sent (wireItem .low (indexWord a))
  | .wDat d => .wire .sent (wireItem .high d)
  | .wRd v => .wire .received (wireItem .high v)

/-- The command words of an instruction; a wire item has none. -/
def commandWords (i : Instr) : List Word :=
  match encode i with
  | .command words => words
  | .wire _ _ => []

/-- The longest command, in words (30 R102). -/
def maxCommandWords : Nat := 7

/-- The first `k` sixteen-bit words of a number, the least significant first. -/
def wordsOfNat : Nat → Nat → List Word
  | 0, _ => []
  | k + 1, w => BitVec.ofNat 16 w :: wordsOfNat k (w / 65536)

/-- Whether `nbits` is the width of a wire item: 17 bits, 24 in whole bytes (the table's W-rows). -/
def isWireWidth (nbits : Nat) : Bool :=
  nbits == 17 || nbits == 24

/-- The wire item numbered by the table: bit 16 is RS, bits 15:0 the word; bit 17 is the model's own number for the
direction, which no bit of the item tells (log 15). -/
def wireOfNat (w : Nat) : Option (Direction × BitVec 17) :=
  if w < 131072 then some (.sent, BitVec.ofNat 17 w)
  else if w < 262144 then some (.received, BitVec.ofNat 17 w)
  else none

/-- The instruction the decoder reads from an instruction's bits, numbered as spec/opcode_table.json numbers them. -/
def decodeTableWord (nbits w : Nat) : Option Instr :=
  if isWireWidth nbits then
    match wireOfNat w with
    | some (dir, item) => decodeWire dir item
    | none => none
  else
    match decodeCommand (wordsOfNat maxCommandWords (w % 2 ^ nbits)) with
    | .command i _ => some i
    | .nothing => none
    | .illegal _ _ => none

end Sys2Proof
end

