-- ==== Sys2Proof/Machine/Memory.lean ====
section
/-!
DEFINITION. Host memory (20_memory R72, R74, R76): bytes, little-endian 16-bit elements.
-/

namespace Sys2Proof.Machine

/-- What an address with no entry reads as. DESIGN CHOICE (log 10): the spec makes host memory an input. -/
def Memory.unlisted : Byte := 0x00#8

/-- The canonical form: addresses strictly rise, lie in host memory, and no entry equals an unlisted address's value. -/
abbrev Memory.wf (m : List Host.Cell) : Prop :=
  Cells.wf m ∧ ∀ c ∈ m, c.1 < hostMemorySize ∧ c.2 ≠ Memory.unlisted

/-- One byte of host memory. An address at or past `2^PTR_BITS`, where the spec has no byte and gives no effect, reads as
an unlisted one. DESIGN CHOICE, log 27. -/
def Memory.byte (m : List Host.Cell) (a : Nat) : Byte :=
  (Cells.get a m).getD Memory.unlisted

/-- Store one byte; an address outside host memory does not exist and stores nothing. -/
def Memory.setByte (m : List Host.Cell) (a : Nat) (b : Byte) : List Host.Cell :=
  if a < hostMemorySize then
    if b = Memory.unlisted then Cells.erase a m else Cells.put a b m
  else m

/-- The 16-bit element at byte address `a`: low byte first (20_memory R72, D20). -/
def Memory.element (m : List Host.Cell) (a : Nat) : Word :=
  Memory.byte m (a + 1) ++ Memory.byte m a

/-- Store the 16-bit element at byte address `a`: low byte first (20_memory R72, D20). -/
def Memory.setElement (m : List Host.Cell) (a : Nat) (v : Word) : List Host.Cell :=
  Memory.setByte (Memory.setByte m a (immField v)) (a + 1) (opField v)

end Sys2Proof.Machine
end

