-- ==== Sys2Proof/Machine/Operands.lean ====
section
/-!
DEFINITION. The operand checks and the coordinate transform: `ValidWindow` (42 R172), `ValidRect` and the window of a
rectangle (42 R174, R175), `ValidBuffer` (43 R204), the interrupt-line set (43 R208).
-/

namespace Sys2Proof.Machine

/-- `ValidWindow(hs, he, vs, ve)` (42 R172), compared as unsigned values. -/
def validWindow (win : Window) : Bool :=
  decide (win.hs.toNat < win.he.toNat) && decide (win.he.toNat < screenSizeX) &&
  decide (win.vs.toNat < win.ve.toNat) && decide (win.ve.toNat < screenSizeY)

/-- `ValidRect(x, y, w, h)` over the unbounded integers (42 R175). -/
def validRect (x y w h : Word) : Bool :=
  decide (2 ≤ w.toNat) && decide (2 ≤ h.toNat) &&
  decide (x.toNat + w.toNat ≤ screenSizeY) && decide (y.toNat + h.toNat ≤ screenSizeX)

/-- `panelV(x) = 219 - x`, the mirrored axis (42 R174; 00_scope R6 `V_MIRROR`). -/
def panelV (x : Word) : Word :=
  219#16 - x

/-- `panelH(y) = y` (42 R174). -/
def panelH (y : Word) : Word :=
  y

/-- The window of a rectangle in the user frame (42 R175): the corners of the rectangle through the transform. -/
def rectWindow (x y w h : Word) : Window where
  hs := panelH y
  he := panelH (y + h - 1#16)
  vs := panelV (x + w - 1#16)
  ve := panelV x

/-- The number of words of a rectangle's burst, over the unbounded integers (42 R178). -/
def rectWords (w h : Word) : Nat :=
  w.toNat * h.toNat

/-- `ValidBuffer(src, n)` (43 R204): non-null, non-empty, even, no wrap past the top of host memory. -/
def validBuffer (src : DWord) (n : Nat) : Bool :=
  src != 0#32 && decide (0 < n) && src.toNat % 2 == 0 && decide (src.toNat + 2 * n ≤ hostMemorySize)

/-- Whether a selector is in `IRQ_LINES` (43 R208). -/
def validLine (c : Config) (line : Byte) : Bool :=
  c.irqLines.contains line

/-- INIT's return value: `sext_32(0x9225 - v)`, expected minus read over the integers (41 R159). -/
def idDifference (v : Word) : DWord :=
  BitVec.ofInt 32 ((deviceId.toNat : Int) - (v.toNat : Int))

/-- The command words that remain from the index `cpc` on (10_state R33). -/
def State.remaining (s : State) : List Word :=
  s.prog.drop s.cpc

end Sys2Proof.Machine
end

