-- ==== Sys2Proof/Machine/Ops.lean ====
section
/-!
DEFINITION. The shared operations: the primitives of 00_scope R12, the contract violation (60_exceptions R243), the
admission check (60 R245), and the framed register and pixel actions the commands are built of (40 R130 to R133,
43 R200 to R203).
-/

namespace Sys2Proof.Machine

/-- Append one event to the trace (00_scope R11). -/
def emit (e : Event) (s : State) : State :=
  { s with traceRev := e :: s.traceRev }

/-- `drive(CS, l)` (00_scope R12). -/
def driveCs (l : Level) (s : State) : State :=
  emit (.pin .cs l) { s with cs := l }

/-- `drive(RS, l)` (00_scope R12). -/
def driveRs (l : Level) (s : State) : State :=
  emit (.pin .rs l) { s with rs := l }

/-- `drive(RST, l)` (00_scope R12); at level 0 the far end becomes unknown (20_memory R87). -/
def driveRst (l : Level) (s : State) : State :=
  emit (.pin .rst l)
    { s with rst := l, panel := match l with | .low => Panel.unknown | .high => s.panel }

/-- `drive(BL, l)` (00_scope R12). -/
def driveBl (l : Lamp) (s : State) : State :=
  emit (.lamp .bl l) { s with bl := l }

/-- `drive(LED, l)` when `HAS_LED_PIN` (10_state R31, 41 R151, R158). -/
def driveLed (l : Lamp) (s : State) : State :=
  if s.cfg.hasLedPin then emit (.lamp .led l) { s with led := l } else s

/-- `Delay(ms)` (00_scope R12, R14; log 21). -/
def delay (ms : Nat) (s : State) : State :=
  emit (.delay ms) s

/-- One word leaves the FIFO for the wire: `TX(rs, v)`, consumed by the far end at the event (43 R212, 20_memory R89). -/
def shiftOut (v : Word) (s : State) : State :=
  emit (.tx s.rs v) { s with panel := Panel.consume s.cfg s.rs v s.panel }

/-- Shift out a queue of words, its head first. -/
def shiftAll : List Word → State → State
  | [], s => s
  | v :: rest, s => shiftAll rest (shiftOut v s)

/-- `Tx(w)` on a blocking path: the word enters the FIFO at its tail, and the command goes on when the FIFO is empty
and the last bit is out (43 R210; log 23). -/
def tx (w : Word) (s : State) : State :=
  shiftAll (s.fifo ++ [w]) { s with fifo := [] }

/-- The word `Rx()` draws from the far end (00_scope R12, 20_memory R88). -/
def rxWord (s : State) : Word :=
  Panel.readAnswer s.cfg s.draws s.panel

/-- A word the far end drives is received: `RX(rs, v)` (00_scope R11), with the far end's side of the read (93 U6). -/
def receiveWord (v : Word) (s : State) : State :=
  emit (.rx s.rs v) { s with panel := Panel.afterRead s.cfg s.panel }

/-- `Rx()`: the drawn word is received; `READ_DUMMY` is shifted out at the same time (00_scope R12). -/
def rx (s : State) : State :=
  receiveWord (rxWord s) { s with draws := s.draws + 1 }

/-- `MemRead(a, 2)`: the element's value at the moment of the read (00_scope R12, 20_memory R76). The precondition
`a` even is not checked: an odd `a`, and an `a` past the top of host memory, which no run reaches, give the two bytes
from `a` on as `Memory.byte` has them. DESIGN CHOICE, log 27. -/
def memReadWord (a : Nat) (s : State) : Word :=
  Memory.element s.mem a

/-- The event of `MemRead(a, 2)` (00_scope R12). -/
def memRead (a : Nat) (s : State) : State :=
  emit (.memRead a (memReadWord a s)) s

/-- `raise E(v)`: taking a contract violation (60 R243). The first code is kept, `err` is sticky, and nothing else
changes; there is no return (60 R244). -/
def raise (v : Violation) (s : State) : State :=
  emit (.violation v) { s with errCode := if s.err then s.errCode else v.code, err := true }

/-- A check of a precondition and the violation its failure raises. -/
def require (ok : Bool) (v : Violation) : Option Violation :=
  if ok then none else some v

/-- How the admission check treats a command (60 R245). -/
inductive Admission where
  /-- Every command but the three below. -/
  | ordinary
  /-- PXWORD and PXEND: they need an open frame. -/
  | inFrame
  /-- WAITCB: admitted in any `dstate`. -/
  | waiting
  deriving DecidableEq, Repr

/-- The admission check (60 R245): the violation it raises, or none when the command is admitted. -/
def admission (k : Admission) (s : State) : Option Violation :=
  match k with
  | .waiting => require (!s.frameOpen) .frame
  | .inFrame => (require (s.dstate == .idle) .busy).or (require s.frameOpen .frame)
  | .ordinary => (require (s.dstate == .idle) .busy).or (require (!s.frameOpen) .frame)

/-- A command: all checks precede all effects (60 R243), the first violation found is the one raised (60 R246). -/
def checked (violation : Option Violation) (effect : State → State) (s : State) : Host.Outcome State Fault Refusal :=
  match violation with
  | some v => .next (raise v s)
  | none => .next (effect s)

/-- A word is put on the wire under the precondition `cs = 0` of `Tx` (00_scope R12). -/
def whileSelected (effect : State → State) (s : State) : Host.Outcome State Fault Refusal :=
  match s.cs with
  | .low => .next (effect s)
  | .high => .fault .wordWhileDeselected

/-- The actions of WRIDX (40 R130). -/
def indexFrame (a : Byte) (s : State) : State :=
  driveCs .high (tx (indexWord a) (driveCs .low (driveRs .low s)))

/-- The actions of WRDAT (40 R131). -/
def dataFrame (v : Word) (s : State) : State :=
  driveCs .high (tx v (driveCs .low (driveRs .high s)))

/-- The actions of SETREG (40 R132). -/
def writeRegister (a : Byte) (v : Word) (s : State) : State :=
  dataFrame v (indexFrame a s)

/-- SETREG for each pair of a table, in its order (41 R155, R157). -/
def writeRegisters : List (Byte × Word) → State → State
  | [], s => s
  | (a, v) :: rest, s => writeRegisters rest (writeRegister a v s)

/-- The actions of GETREG (40 R133): the index frame, then the read frame; `result` takes the word. -/
def readRegister (a : Byte) (s : State) : State :=
  let selected := driveCs .low (driveRs .high (indexFrame a s))
  let received := driveCs .high (rx selected)
  { received with result := (rxWord selected).setWidth 32 }

/-- The PXSTART-actions: the first six events of PXSTART (43 R200). -/
def openBurst (s : State) : State :=
  driveCs .low (driveRs .high (indexFrame s.cfg.idx.gramRw s))

/-- The PXEND-actions (43 R202). -/
def closeBurst (s : State) : State :=
  driveCs .high s

/-- `repeat n times: Tx(w)` (42 R178). -/
def txRepeat : Nat → Word → State → State
  | 0, _, s => s
  | n + 1, w, s => txRepeat n w (tx w s)

/-- `for i in 0 .. n-1: Tx(MemRead(a + 2*i, 2))` (43 R203, 42 R179). -/
def txBuffer : Nat → Nat → State → State
  | 0, _, s => s
  | n + 1, a, s => txBuffer n (a + 2) (tx (memReadWord a s) (memRead a s))

/-- The actions of SETWIN (42 R170). -/
def setWindow (win : Window) (s : State) : State :=
  let m := s.cfg.idx
  writeRegisters
    [(m.hwinStart, win.hs), (m.hwinEnd, win.he), (m.vwinStart, win.vs), (m.vwinEnd, win.ve), (m.ramAddr1, win.hs),
      (m.ramAddr2, win.vs)] s

/-- A rectangle's burst of one colour (42 R178). -/
def fillRectangle (x y w h color : Word) (s : State) : State :=
  closeBurst (txRepeat (rectWords w h) color (openBurst (setWindow (rectWindow x y w h) s)))

/-- A buffer's burst (43 R203). -/
def sendBuffer (src : DWord) (n : Nat) (s : State) : State :=
  closeBurst (txBuffer n src.toNat (openBurst s))

end Sys2Proof.Machine
end

