-- ==== Sys2Proof/Machine/InitSequencer.lean ====
section
/-!
DEFINITION. The initialization sequencer: INIT and its stages (41_init_sequencer).
-/

namespace Sys2Proof.Machine

/-- Stage 1, pin arm (41 R151). -/
def initPinArm (s : State) : State :=
  delay 1 (driveLed .off (driveBl .off (driveRs .low (driveCs .high (driveRst .high s)))))

/-- Stage 2, reset pulse (41 R153). -/
def initResetPulse (s : State) : State :=
  delay 50 (driveRst .high (delay 10 (driveRst .low s)))

/-- Stage 3, power bring-up phase 1 (41 R154). -/
def initPowerZero (s : State) : State :=
  delay 40 (writeRegisters (s.cfg.idx.powerCtrl.map (fun i => (i, 0x0000#16))) s)

/-- Stage 4, power bring-up phase 2 (41 R155). -/
def initPowerOn (s : State) : State :=
  delay 10 (writeRegisters s.cfg.init.pwrOn s)

/-- Stage 5, booster enable (41 R156). -/
def initBooster (s : State) : State :=
  delay 50 (writeRegister s.cfg.idx.powerCtrl2 s.cfg.init.boost s)

/-- Stage 6, the configuration table and the gamma registers (41 R157). -/
def initConfigTable (s : State) : State :=
  delay 50 (writeRegisters (s.cfg.init.cfg ++ s.cfg.idx.gamma.zip s.cfg.init.gamma) s)

/-- Stage 7, display on (41 R158). -/
def initDisplayOn (s : State) : State :=
  delay 50 (writeRegister s.cfg.idx.dispCtrl s.cfg.init.dispOn s)

/-- Stage 8, backlight on (41 R158). -/
def initBacklightOn (s : State) : State :=
  driveLed .on (driveBl .on s)

/-- The descriptor's fixed parameters: configured, not armed (41 R158). -/
def configureDescriptor (s : State) : State :=
  { s with tdWidth := 16, tdDreq := s.cfg.busTxDreq, tdDst := s.cfg.busDataReg, tdCfg := true }

/-- Stage 9, identification check (41 R159). -/
def initIdCheck (s : State) : State :=
  if s.cfg.readSupport then
    let read := readRegister s.cfg.idx.driverCode s
    { read with result := idDifference (read.result.extractLsb' 0 16) }
  else { s with result := 0#32 }

/-- Stages 1 to 8 and the descriptor, in their order (41 R150). -/
def initSequence (s : State) : State :=
  configureDescriptor (initBacklightOn (initDisplayOn (initConfigTable (initBooster (initPowerOn (initPowerZero
    (initResetPulse (initPinArm s))))))))

/-- INIT (41 R150). -/
def execInit (s : State) : Host.Outcome State Fault Refusal :=
  checked (admission .ordinary s) (fun t => initIdCheck (initSequence t)) s

end Sys2Proof.Machine
end

