-- ==== Sys2Proof/Machine/PixelTransfer.lean ====
section
/-!
DEFINITION. The pixel-transfer commands: PXSTART, PXWORD, PXEND, WRPIX, DMAWR, SETCB, WAITCB (43_pixel_transfer).
-/

namespace Sys2Proof.Machine

/-- PXSTART (43 R200). -/
def execPxstart (s : State) : Host.Outcome State Fault Refusal :=
  checked (admission .ordinary s) (fun t => { openBurst t with frameOpen := true }) s

/-- PXWORD w (43 R201): one raw word inside the open frame. -/
def execPxword (w : Word) (s : State) : Host.Outcome State Fault Refusal :=
  match admission .inFrame s with
  | some v => .next (raise v s)
  | none => whileSelected (tx w) s

/-- PXEND (43 R202). -/
def execPxend (s : State) : Host.Outcome State Fault Refusal :=
  checked (admission .inFrame s) (fun t => { closeBurst t with frameOpen := false }) s

/-- WRPIX src, n (43 R203). -/
def execWrpix (src n : DWord) (s : State) : Host.Outcome State Fault Refusal :=
  checked ((admission .ordinary s).or (require (validBuffer src n.toNat) .buffer)) (sendBuffer src n.toNat) s

/-- DMAWR's effect: open the framing, load the descriptor, trigger; CS stays low (43 R206). -/
def startTransfer (src n : DWord) (s : State) : State :=
  let framed := { openBurst s with dstate := .framed }
  let loaded := emit (.dmaStart src n) { framed with tdSrc := src, tdCount := n, tdRem := n }
  { loaded with dstate := .armed }

/-- DMAWR src, n (43 R206), its checks in the order of 60 R246. -/
def execDmawr (src n : DWord) (s : State) : Host.Outcome State Fault Refusal :=
  checked
    ((((admission .ordinary s).or (require s.tdCfg .noinit)).or (require (validBuffer src n.toNat) .buffer)).or
      (require s.cbValid .nocb))
    (startTransfer src n) s

/-- SETCB line, fn (43 R208). -/
def execSetcb (line : Byte) (fn : DWord) (s : State) : Host.Outcome State Fault Refusal :=
  checked ((admission .ordinary s).or (require (validLine s.cfg line) .irqline))
    (fun t => { t with cbLine := line, cbFn := fn, cbValid := true }) s

/-- WAITCB (43 R209): no event and no effect; whether it returns or holds is `commandReturns`, and `contextTurn` says
how long it holds (log 19). -/
def execWaitcb (s : State) : Host.Outcome State Fault Refusal :=
  checked (admission .waiting s) (fun t => t) s

end Sys2Proof.Machine
end

