-- ==== Sys2Proof/Machine/RegisterProtocol.lean ====
section
/-!
DEFINITION. The register protocol framer: WRIDX, WRDAT, SETREG, GETREG (40_register_protocol).
-/

namespace Sys2Proof.Machine

/-- WRIDX a (40 R130). -/
def execWridx (a : Byte) (s : State) : Host.Outcome State Fault Refusal :=
  checked (admission .ordinary s) (indexFrame a) s

/-- WRDAT v (40 R131). -/
def execWrdat (v : Word) (s : State) : Host.Outcome State Fault Refusal :=
  checked (admission .ordinary s) (dataFrame v) s

/-- SETREG a, v (40 R132): one admission check for the pair. -/
def execSetreg (a : Byte) (v : Word) (s : State) : Host.Outcome State Fault Refusal :=
  checked (admission .ordinary s) (writeRegister a v) s

/-- GETREG a (40 R133): the feature gate is tested before the admission check (60 R246). -/
def execGetreg (a : Byte) (s : State) : Host.Outcome State Fault Refusal :=
  checked ((require s.cfg.readSupport .unsupported).or (admission .ordinary s)) (readRegister a) s

end Sys2Proof.Machine
end

