-- ==== Sys2Proof/Machine/WindowAddressing.lean ====
section
/-!
DEFINITION. The display-window address generator: SETWIN, SETADDR, FILL, FILLRECT, BLIT (42_window_addressing).
-/

namespace Sys2Proof.Machine

/-- SETWIN hs, he, vs, ve (42 R170). -/
def execSetwin (hs he vs ve : Word) (s : State) : Host.Outcome State Fault Refusal :=
  checked ((admission .ordinary s).or (require (validWindow ⟨hs, he, vs, ve⟩) .window)) (setWindow ⟨hs, he, vs, ve⟩) s

/-- SETADDR x, y (42 R171): no bounds check. -/
def execSetaddr (x y : Word) (s : State) : Host.Outcome State Fault Refusal :=
  checked (admission .ordinary s) (writeRegisters [(s.cfg.idx.ramAddr1, x), (s.cfg.idx.ramAddr2, y)]) s

/-- FILL color (42 R177): `FILLRECT 0, 0, 220, 176, color`. -/
def execFill (color : Word) (s : State) : Host.Outcome State Fault Refusal :=
  checked (admission .ordinary s) (fillRectangle 0#16 0#16 220#16 176#16 color) s

/-- FILLRECT x, y, w, h, color (42 R178). -/
def execFillrect (x y w h color : Word) (s : State) : Host.Outcome State Fault Refusal :=
  checked ((admission .ordinary s).or (require (validRect x y w h) .window)) (fillRectangle x y w h color) s

/-- BLIT x, y, w, h, src (42 R179): the rectangle is checked before the buffer (60 R246). -/
def execBlit (x y w h : Word) (src : DWord) (s : State) : Host.Outcome State Fault Refusal :=
  checked
    (((admission .ordinary s).or (require (validRect x y w h) .window)).or
      (require (validBuffer src (rectWords w h)) .buffer))
    (fun t => sendBuffer src (rectWords w h) (setWindow (rectWindow x y w h) t)) s

end Sys2Proof.Machine
end

