-- ==== Sys2Proof/Machine/Wire.lean ====
section
/-!
DEFINITION. The wire items W-IDX, W-DAT, W-RD (30_encoding R100): one word on the wire, with the far end's part
(20_memory R82 to R84, R88). The SHIFTER runs the sent ones (43 R212).
-/

namespace Sys2Proof.Machine

/-- A wire item whose RS level is `r`: it is carried inside a CS-low interval (30 R100) with RS at that level. -/
def onWire (r : Level) (effect : State → State) (s : State) : Host.Outcome State Fault Refusal :=
  if s.rs = r then whileSelected effect s else .fault .wordAgainstRs

/-- W-IDX: an index word (30 R100, R101; 20_memory R82). -/
def execWIdx (a : Byte) (s : State) : Host.Outcome State Fault Refusal :=
  onWire .low (shiftOut (indexWord a)) s

/-- W-DAT: a data or pixel word (30 R100; 20_memory R83, R84). -/
def execWDat (d : Word) (s : State) : Host.Outcome State Fault Refusal :=
  onWire .high (shiftOut d) s

/-- W-RD: a word the far end drives, "only when READ_SUPPORT" (30 R100). A word that the law of 20_memory R88 excludes,
which no far end drives, is received like any other: DESIGN CHOICE, log 29. -/
def execWRd (v : Word) (s : State) : Host.Outcome State Fault Refusal :=
  if s.cfg.readSupport then onWire .high (receiveWord v) s else .refused .noDataInLine

end Sys2Proof.Machine
end

