-- ==== Sys2Proof/Machine/Dispatch.lean ====
section
/-!
DEFINITION. The meaning of each instruction, one arm per constructor.
-/

namespace Sys2Proof.Machine

def exec (i : Instr) (s : State) : Host.Outcome State Fault Refusal :=
  match i with
  | .wridx a => Sys2Proof.Machine.execWridx a s
  | .wrdat v => Sys2Proof.Machine.execWrdat v s
  | .setreg a v => Sys2Proof.Machine.execSetreg a v s
  | .getreg a => Sys2Proof.Machine.execGetreg a s
  | .setwin hs he vs ve => Sys2Proof.Machine.execSetwin hs he vs ve s
  | .setaddr x y => Sys2Proof.Machine.execSetaddr x y s
  | .pxstart => Sys2Proof.Machine.execPxstart s
  | .pxword w => Sys2Proof.Machine.execPxword w s
  | .pxend => Sys2Proof.Machine.execPxend s
  | .wrpix src n => Sys2Proof.Machine.execWrpix src n s
  | .dmawr src n => Sys2Proof.Machine.execDmawr src n s
  | .fill color => Sys2Proof.Machine.execFill color s
  | .fillrect x y w h color => Sys2Proof.Machine.execFillrect x y w h color s
  | .blit x y w h src => Sys2Proof.Machine.execBlit x y w h src s
  | .init => Sys2Proof.Machine.execInit s
  | .setcb line fn => Sys2Proof.Machine.execSetcb line fn s
  | .waitcb => Sys2Proof.Machine.execWaitcb s
  | .wIdx a => Sys2Proof.Machine.execWIdx a s
  | .wDat d => Sys2Proof.Machine.execWDat d s
  | .wRd v => Sys2Proof.Machine.execWRd v s

end Sys2Proof.Machine
end

