-- ==== Sys2Proof/Machine/Agents.lean ====
section
/-!
DEFINITION. The turns of the DMA, IRQ and HOST-memory agents (43_pixel_transfer R211, R213, R214; 20_memory R76).
An agent whose step is not enabled leaves the state as it is (log 4).
-/

namespace Sys2Proof.Machine

/-- `BUS_TX_DREQ`: high exactly when the FIFO has room (43 R210). -/
def dataRequest (s : State) : Bool :=
  decide (s.fifo.length < s.cfg.fifoDepth)

/-- Whether `DmaPush` is enabled (43 R211). -/
def dmaPushEnabled (s : State) : Bool :=
  s.dstate == .armed && s.tdRem != 0#32 && dataRequest s

/-- The byte address of the next element: `td_src + 2*i`, `i = td_count - td_rem` (43 R211). -/
def dmaAddress (s : State) : Nat :=
  s.tdSrc.toNat + 2 * (s.tdCount.toNat - s.tdRem.toNat)

/-- `DmaPush` (43 R211). -/
def dmaPush (s : State) : State :=
  if dmaPushEnabled s then
    let v := memReadWord (dmaAddress s) s
    let read := memRead (dmaAddress s) s
    { read with fifo := read.fifo ++ [v], tdRem := read.tdRem - 1#32 }
  else s

/-- Whether `DmaDone` is enabled (43 R213). -/
def dmaDoneEnabled (s : State) : Bool :=
  s.dstate == .armed && s.tdRem == 0#32 && s.fifo.isEmpty && !s.irqPending

/-- `DmaDone` (43 R213). -/
def dmaDone (s : State) : State :=
  if dmaDoneEnabled s then emit (.irqRaise s.cbLine) { s with irqPending := true } else s

/-- The WAITCB commands that hold are lifted, in either context (43 R209, 60 R251; log 19). -/
def liftWaits (s : State) : State :=
  { s with wait := s.wait.lift, cbWait := s.cbWait.lift }

/-- `IrqHandler`: close the framing, clear the condition, invoke the callback with the state machine back in `Idle`
(43 R214), which lifts a WAITCB that holds (43 R209). -/
def irqHandler (s : State) : State :=
  if s.irqPending then
    let closed := { closeBurst s with dstate := .completing }
    let cleared := emit (.irqClear s.cbLine) { closed with irqPending := false }
    emit (.callback s.cbFn) (liftWaits { cleared with dstate := .idle })
  else s

/-- The HOST stores one element of its memory; single-copy atomic at 16 bits (20_memory R76, R78). -/
def hostStore (elem : BitVec 31) (v : Word) (s : State) : State :=
  { s with mem := Memory.setElement s.mem (2 * elem.toNat) v }

/-- Whether the far end is being read: CS low, RS high, and neither an open frame nor a transfer (40 R133). Between
two steps of a run from reset this never holds (10_state R42); log 14. -/
def readInProgress (s : State) : Bool :=
  s.cfg.readSupport && s.cs == .low && s.rs == .high && s.dstate == .idle && !s.frameOpen

end Sys2Proof.Machine
end

