-- ==== Sys2Proof/Machine/Turns.lean ====
section
/-!
DEFINITION. One turn of an agent, over the meaning `run` of an instruction: fetching a command (10_state R33), the
SHIFTER's word (43 R212), a received word (20_memory R88), and the order of turns (00_scope R15; log 3).
-/

namespace Sys2Proof.Machine

/-- The HOST moves past the words of a command in its thread (10_state R33). -/
def advanceCpc (len : Nat) (s : State) : State :=
  { s with cpc := s.cpc + len }

/-- The callback moves past the words of a command (60 R251). -/
def advanceCallback (len : Nat) (s : State) : State :=
  { s with cbProg := s.cbProg.drop len }

/-- The callback goes on to issue `words` (60 R250). When an earlier callback's WAITCB still holds, which the spec
refuses (93 U19), a later callback's words queue behind the earlier one's. DESIGN CHOICE, log 18. -/
def extendCallback (words : List Word) (s : State) : State :=
  { s with cbProg := s.cbProg ++ words }

/-- The words a context has still to issue. -/
def State.wordsOf (c : Context) (s : State) : List Word :=
  match c with
  | .thread => s.remaining
  | .interrupt => s.cbProg

/-- The WAITCB a context is in. -/
def State.waitOf (c : Context) (s : State) : Wait :=
  match c with
  | .thread => s.wait
  | .interrupt => s.cbWait

/-- A context comes to another point of its WAITCB (43 R209; log 19). -/
def setWait (c : Context) (w : Wait) (s : State) : State :=
  match c with
  | .thread => { s with wait := w }
  | .interrupt => { s with cbWait := w }

/-- A context moves past the words of a command the ENGINE returned from (10_state R33, 60 R251). -/
def advance (c : Context) (len : Nat) (s : State) : State :=
  match c with
  | .thread => advanceCpc len s
  | .interrupt => advanceCallback len s

/-- WAITCB returns: its context moves past its one word (43 R209). -/
def endWait (c : Context) (s : State) : State :=
  advance c 1 (setWait c .none s)

/-- Whether the ENGINE returns at once from a command begun in `s`, from either context (60 R251): only a WAITCB that is
admitted while `dstate` is not `Idle` holds (43 R209; log 19). -/
def commandReturns (i : Instr) (s : State) : Bool :=
  if i = .waitcb then s.dstate == .idle || s.frameOpen else true

/-- The HOST hands the ENGINE the next command of a context, in thread and in interrupt context alike (60 R251): it is
decoded, checked and run once, and the HOST moves past its words when the ENGINE returns (10_state R33). An illegal
command raises `E_ILLEGAL` (30 R107); with no word there is nothing to issue (log 4). -/
def issueCommand (run : Instr → State → Host.Outcome State Fault Refusal) (c : Context) (s : State) :
    Host.Outcome State Fault Refusal :=
  match decodeCommand (s.wordsOf c) with
  | .nothing => .next s
  | .illegal _ len => .next (advance c len (raise .illegal s))
  | .command i len =>
    match run i s with
    | .next t => .next (if commandReturns i s then advance c len t else setWait c .holding t)
    | .fault f => .fault f
    | .refused r => .refused r

/-- The HOST's turn in a context: its next command, or, inside a WAITCB that was admitted before, no further check: it
holds while `dstate` is not `Idle`, and returns once the `IrqHandler` step has lifted it (43 R209, D35; log 19). -/
def contextTurn (run : Instr → State → Host.Outcome State Fault Refusal) (c : Context) (s : State) :
    Host.Outcome State Fault Refusal :=
  match s.waitOf c with
  | .none => issueCommand run c s
  | .holding => .next (if s.dstate = .idle then endWait c s else s)
  | .lifted => .next (endWait c s)

/-- The HOST's turn in thread context: the command at `cpc` (10_state R33). -/
def hostTurn (run : Instr → State → Host.Outcome State Fault Refusal) (s : State) : Host.Outcome State Fault Refusal :=
  contextTurn run .thread s

/-- The HOST's turn in interrupt context: the first command the callback has issued and the ENGINE not done with, run
like any other (60 R250, R251; 43 R209); the stream's index stays. The words of several callbacks are one queue, first
in first out (log 18). -/
def callbackTurn (run : Instr → State → Host.Outcome State Fault Refusal) (words : List Word) (s : State) :
    Host.Outcome State Fault Refusal :=
  contextTurn run .interrupt (extendCallback words s)

/-- `Shift` (43 R212): the FIFO's head leaves as the wire item its word and the RS latch make. A word that is no item
of 30 R100 (RS low, upper byte not zero), which the engine never sends, is shifted all the same. -/
def shiftTurn (run : Instr → State → Host.Outcome State Fault Refusal) (s : State) : Host.Outcome State Fault Refusal :=
  match s.fifo with
  | [] => .next s
  | v :: rest =>
    match decodeWire .sent (wireItem s.rs v) with
    | some i => run i { s with fifo := rest }
    | none => whileSelected (shiftOut v) { s with fifo := rest }

/-- The far end drives the word of a read in progress (20_memory R88; logs 14 and 29). -/
def panelTurn (run : Instr → State → Host.Outcome State Fault Refusal) (v : Word) (s : State) :
    Host.Outcome State Fault Refusal :=
  if readInProgress s then
    match decodeWire .received (wireItem s.rs v) with
    | some i => run i s
    | none => .next s
  else .next s

/-- The agent whose turn it is, and the state with that turn taken off the schedule (log 3). -/
def takeTurn (s : State) : Turn × State :=
  match s.turns, s.cycle with
  | t :: rest, _ => (t, { s with turns := rest })
  | [], t :: rest => (t, { s with turns := rest })
  | [], [] => (.host, s)

/-- One agent's turn (00_scope R15). -/
def runTurn (run : Instr → State → Host.Outcome State Fault Refusal) (t : Turn) (s : State) :
    Host.Outcome State Fault Refusal :=
  match t with
  | .host => hostTurn run s
  | .callback words => callbackTurn run words s
  | .dmaPush => .next (dmaPush s)
  | .shift => shiftTurn run s
  | .dmaDone => .next (dmaDone s)
  | .irqHandler => .next (irqHandler s)
  | .hostStore elem v => .next (hostStore elem v s)
  | .panelDrives v => panelTurn run v s

/-- The command stream with `words` laid at `cpc`. -/
def placeWords (words : List Word) (s : State) : List Word :=
  s.prog.take s.cpc ++ List.replicate (s.cpc - s.prog.length) 0#16 ++ words ++ s.prog.drop (s.cpc + words.length)

/-- The state in which the HOST's turn comes next and fetches `words`, its thread in no WAITCB. -/
def placeCommand (words : List Word) (s : State) : State :=
  { s with prog := placeWords words s, turns := .host :: s.turns, wait := .none }

/-- The state in which a wire item comes next: a sent one is the FIFO's head with the RS latch, inside a CS-low
interval (30 R100); a received one needs a read in progress (log 14). -/
def placeItem (dir : Direction) (item : BitVec 17) (s : State) : State :=
  match dir with
  | .sent =>
    { s with cs := .low, rs := itemLevel item, fifo := itemWord item :: s.fifo, turns := .shift :: s.turns }
  | .received =>
    { s with
      cfg := { s.cfg with readSupport := true }
      cs := .low
      rs := itemLevel item
      dstate := .idle
      frameOpen := false
      turns := .panelDrives (itemWord item) :: s.turns }

/-- The state in which the next step runs the instruction whose bits are `w`. -/
def placeTableWord (nbits w : Nat) (s : State) : State :=
  if isWireWidth nbits then
    match wireOfNat w with
    | some (dir, item) => placeItem dir item s
    | none => s
  else placeCommand (wordsOfNat maxCommandWords (w % 2 ^ nbits)) s

end Sys2Proof.Machine
end

