-- ==== Sys2Proof/Machine/Trace.lean ====
section
/-!
DEFINITION. Views of the trace: its frames (00_scope R13), and what a word is on the data-out line (20_memory R70).
-/

namespace Sys2Proof.Machine

/-- A word of a frame: sent, or received in a read frame (20_memory R71). -/
inductive FrameWord where
  | sent (w : Word)
  | received (w : Word)
  deriving DecidableEq, Repr

/-- A frame `(r, [w0, w1, ...])` (00_scope R13). -/
structure Frame where
  rs : Level
  words : List FrameWord
  deriving DecidableEq, Repr

/-- The frames of a trace read so far. -/
structure FrameScan where
  /-- The levels of CS and RS after the events read. -/
  cs : Level
  rs : Level
  /-- The RS level of the frame that is open, and its words, newest first. -/
  level : Level
  words : List FrameWord
  /-- The closed frames, newest first. -/
  closed : List Frame
  deriving DecidableEq, Repr

/-- One event of `Frames(T)`: only CS, RS, TX and RX count (00_scope R13). -/
def FrameScan.event (f : FrameScan) : Event → FrameScan
  | .pin .cs .low =>
    match f.cs with
    | .high => { f with cs := .low, level := f.rs, words := [] }
    | .low => f
  | .pin .cs .high =>
    match f.cs with
    | .low => { f with cs := .high, words := [], closed := ⟨f.level, f.words.reverse⟩ :: f.closed }
    | .high => f
  | .pin .rs l => { f with rs := l }
  | .pin .rst _ => f
  | .tx r w => { f with level := r, words := .sent w :: f.words }
  | .rx r w => { f with level := r, words := .received w :: f.words }
  | .lamp _ _ => f
  | .delay _ => f
  | .memRead _ _ => f
  | .dmaStart _ _ => f
  | .irqRaise _ => f
  | .irqClear _ => f
  | .callback _ => f
  | .violation _ => f

/-- Before any event the pins are at their reset levels (10_state R45). -/
def FrameScan.start : FrameScan where
  cs := .high
  rs := .low
  level := .low
  words := []
  closed := []

/-- `Frames(T)`: the closed frames of a trace, in order (00_scope R13; a frame still open is none yet, log 20). -/
def frames (T : List Event) : List Frame :=
  (T.foldl FrameScan.event FrameScan.start).closed.reverse

/-- The word on the data-out line at an event: a received word has `READ_DUMMY` shifted out beside it (00_scope R11). -/
def Event.dataOut (c : Config) : Event → Option Word
  | .tx _ w => some w
  | .rx _ _ => some c.readDummy
  | .pin _ _ => none
  | .lamp _ _ => none
  | .delay _ => none
  | .memRead _ _ => none
  | .dmaStart _ _ => none
  | .irqRaise _ => none
  | .irqClear _ => none
  | .callback _ => none
  | .violation _ => none

/-- The bits of a word in the order they are on the wire: bit 15 first (20_memory R70, R72). -/
def wireBits (w : Word) : List Bool :=
  (List.range 16).map w.getMsbD

end Sys2Proof.Machine
end

