-- ==== Sys2Proof/WellFormed.lean ====
section
/-!
DEFINITION. What is well-formed: the coded form of an instruction (30_encoding R100, R102, R106, R107) and an
assignment of the OPEN parameters (00_scope R7, 10_state R40, 41_init_sequencer R152).
An `Instr` needs no check of its own: its operands' widths are their types, and no operand value is illegal at decode
time (30 R108).
-/

namespace Sys2Proof

/-- One row of the opcode map of 30 R106: a first word `c0` selects the row when `c0 &&& mask = pattern`. -/
structure CommandRow where
  mask : Word
  pattern : Word
  len : Nat
  deriving DecidableEq, Repr

/-- The opcode map of 30 R106, in the table's order. -/
def commandRows : List CommandRow :=
  [⟨0xFF00#16, 0x0100#16, 1⟩, ⟨0xFFFF#16, 0x0200#16, 2⟩, ⟨0xFF00#16, 0x0300#16, 2⟩, ⟨0xFF00#16, 0x0400#16, 1⟩,
    ⟨0xFFFF#16, 0x1000#16, 5⟩, ⟨0xFFFF#16, 0x1100#16, 3⟩] ++
  [⟨0xFFFF#16, 0x2000#16, 1⟩, ⟨0xFFFF#16, 0x2100#16, 2⟩, ⟨0xFFFF#16, 0x2200#16, 1⟩, ⟨0xFFFF#16, 0x2300#16, 5⟩,
    ⟨0xFFFF#16, 0x2400#16, 5⟩] ++
  [⟨0xFFFF#16, 0x3000#16, 2⟩, ⟨0xFFFF#16, 0x3100#16, 6⟩, ⟨0xFFFF#16, 0x3200#16, 7⟩, ⟨0xFFFF#16, 0x4000#16, 1⟩,
    ⟨0xFF00#16, 0x4100#16, 3⟩, ⟨0xFFFF#16, 0x4200#16, 1⟩]

/-- The row a first command word selects, if any (30 R106); none is the illegal word of 30 R107. -/
def CommandRow.select (c0 : Word) : Option CommandRow :=
  commandRows.find? (fun r => c0 &&& r.mask == r.pattern)

/-- A command is its first word, which selects a row, and exactly the row's operand words (30 R102, R103). -/
def Code.commandWellFormed : List Word → Bool
  | [] => false
  | c0 :: operands =>
    match CommandRow.select c0 with
    | none => false
    | some r => operands.length + 1 == r.len

/-- A sent item is W-IDX, whose upper byte is zero, or W-DAT; a received one has RS at 1 (30 R100). -/
def Code.wireWellFormed (dir : Direction) (item : BitVec 17) : Bool :=
  match dir with
  | .sent => item &&& 0x1FF00#17 == 0x00000#17 || item &&& 0x10000#17 == 0x10000#17
  | .received => item &&& 0x10000#17 == 0x10000#17

def Code.wellFormed : Code → Bool
  | .command words => Code.commandWellFormed words
  | .wire dir item => Code.wireWellFormed dir item

/-- Every index the register map names (10_state R40). -/
def RegMap.all (m : RegMap) : List Byte :=
  [m.driverCode, m.driverOutputCtrl, m.acDrivingCtrl, m.entryMode, m.dispCtrl, m.porch, m.frameCycle, m.interfaceCtrl,
    m.oscCtrl] ++ m.powerCtrl ++ [m.vciRecycling, m.ramAddr1, m.ramAddr2, m.gramRw, idxSoftReset, m.gateScan] ++
  m.vscroll ++ m.partialDrive ++ [m.hwinEnd, m.hwinStart, m.vwinEnd, m.vwinStart] ++ m.gamma

/-- Whether every index of `l` lies in `lo..hi`. -/
def allWithin (lo hi : Byte) (l : List Byte) : Bool :=
  l.all (fun i => lo ≤ i && i ≤ hi)

/-- What D0 fixes of the register map: the ranges, and distinct indices (10_state R40). -/
def RegMap.wellFormed (m : RegMap) : Bool :=
  decide m.all.Nodup &&
  allWithin 0x00#8 0x0F#8 [m.driverCode, m.driverOutputCtrl, m.acDrivingCtrl, m.entryMode, m.dispCtrl, m.porch,
    m.frameCycle, m.interfaceCtrl, m.oscCtrl] &&
  allWithin 0x10#8 0x15#8 m.powerCtrl &&
  allWithin 0x20#8 0x22#8 [m.ramAddr1, m.ramAddr2, m.gramRw] &&
  allWithin 0x30#8 0x39#8 ([m.gateScan, m.hwinEnd, m.hwinStart, m.vwinEnd, m.vwinStart] ++ m.vscroll ++ m.partialDrive) &&
  allWithin 0x50#8 0x59#8 m.gamma && m.gamma.length == 10

/-- D0's categories of the configuration table, in their order; inside a category the order is open (41 R152;
log 24). -/
def RegMap.cfgCategories (m : RegMap) : List (List Byte) :=
  [[m.driverOutputCtrl], [m.acDrivingCtrl], [m.entryMode], [m.dispCtrl], [m.porch], [m.frameCycle], [m.interfaceCtrl],
    [m.oscCtrl], [m.vciRecycling], [m.ramAddr1, m.ramAddr2], [m.gateScan], m.vscroll, m.partialDrive,
    [m.hwinEnd, m.hwinStart, m.vwinEnd, m.vwinStart]]

/-- Whether `l` is the categories laid end to end, each in any order. -/
def inCategoryOrder : List (List Byte) → List Byte → Bool
  | [], l => l.isEmpty
  | g :: gs, l => (l.take g.length).isPerm g && inCategoryOrder gs (l.drop g.length)

/-- The configuration table's values D0 fixes: the entry mode and the full-screen window (41 R152). -/
def fixedCfgValues (m : RegMap) : List (Byte × Word) :=
  [(m.entryMode, entryModeValue), (m.hwinStart, 0#16), (m.hwinEnd, 0x00AF#16), (m.vwinStart, 0#16), (m.vwinEnd, 0x00DB#16)]

/-- The constraints of 41 R152 on the initialization tables. -/
def InitTables.wellFormed (m : RegMap) (t : InitTables) : Bool :=
  (t.pwrOn.map Prod.fst).isPerm m.powerCtrl &&
  t.pwrOn.all (fun p => p.2 != 0#16) &&
  inCategoryOrder m.cfgCategories (t.cfg.map Prod.fst) &&
  (fixedCfgValues m).all (fun p => t.cfg.contains p) &&
  t.gamma.length == 10

/-- An assignment of the OPEN parameters that the spec allows (00_scope R7). -/
def Config.wellFormed (c : Config) : Bool :=
  decide (1 ≤ c.fifoDepth) && c.idx.wellFormed && c.init.wellFormed c.idx

end Sys2Proof
end

