-- ==== Sys2Proof/Safety.lean ====
section
/-!
DEFINITION. The terms claims use: the invariant of 10_state R42, the discipline of the wire (00_scope R13), the
progress of a DMA transfer (43 R215), the end of a run (70 R277), weak fairness (70 R291), `AdvanceCovers` (20_memory
R86), and the event lists the spec's pseudocode appends.
-/

namespace Sys2Proof.Machine

/-- The far end's lists are in canonical form and list only cells that exist (20_memory R80). -/
structure Panel.Canonical (p : Panel) : Prop where
  reg_wf : Cells.wf p.reg
  gram_wf : Cells.wf p.gram
  reg_exists : ∀ c ∈ p.reg, c.1 < 256
  gram_exists : ∀ c ∈ p.gram, c.1 < screenSizeX * screenSizeY

/-- What holds between any two steps of any agent: the seven lines of 10_state R42, and what else the rules named keep. -/
structure EngineInv (s : State) : Prop where
  /-- R42.1. -/
  quiescent : s.dstate = .idle ∨ s.dstate = .armed
  /-- R42.2. -/
  selected_iff : s.cs = .low ↔ (s.frameOpen = true ∨ s.dstate = .armed)
  /-- R42.3. -/
  exclusive : s.frameOpen = true → s.dstate = .idle
  /-- R42.4. -/
  selected_pixels : s.cs = .low → s.rs = .high ∧ s.panel.ir = some s.cfg.idx.gramRw
  /-- R42.5. -/
  idle_drained : s.dstate = .idle → s.fifo = [] ∧ s.irqPending = false ∧ s.tdRem = 0#32
  /-- R42.6. -/
  armed_ready : s.dstate = .armed → s.cbValid = true ∧ s.tdCfg = true
  /-- R42.7. -/
  no_error : s.err = false → s.errCode = 0#8
  /-- 60 R241: a recorded violation has one of the codes 1 to 9. -/
  error_code : s.err = true → 1 ≤ s.errCode.toNat ∧ s.errCode.toNat ≤ 9
  /-- 10_state R33, 30 R103: the index stays inside the stream. -/
  cpc_le : s.cpc ≤ s.prog.length
  /-- 43 R209: a thread is in a WAITCB only where one is its next command; one that holds waits for a transfer. -/
  thread_waits : s.wait ≠ .none → ∃ rest, s.prog.drop s.cpc = 0x4200#16 :: rest
  thread_holds : s.wait = .holding → s.dstate = .armed
  /-- 43 R209, 60 R251: the same of the callback. -/
  callback_waits : s.cbWait ≠ .none → ∃ rest, s.cbProg = 0x4200#16 :: rest
  callback_holds : s.cbWait = .holding → s.dstate = .armed
  /-- 10_state R38: the FIFO's capacity. -/
  fifo_fits : s.fifo.length ≤ s.cfg.fifoDepth
  /-- 10_state R35: at most the transfer's elements remain. -/
  rem_le : s.tdRem.toNat ≤ s.tdCount.toNat
  /-- 43 R213, R214: a pending condition belongs to a drained transfer. -/
  pending_drained : s.irqPending = true → s.dstate = .armed ∧ s.tdRem = 0#32 ∧ s.fifo = []
  /-- 10_state R35, 41 R158: the fixed parameters, once configured. -/
  configured : s.tdCfg = true → s.tdWidth = 16 ∧ s.tdDst = s.cfg.busDataReg ∧ s.tdDreq = s.cfg.busTxDreq
  /-- 43 R206: an armed transfer has a valid buffer. -/
  armed_buffer : s.dstate = .armed → validBuffer s.tdSrc s.tdCount.toNat = true
  /-- 43 R208: a bound line is one of `IRQ_LINES`. -/
  bound_line : s.cbValid = true → validLine s.cfg s.cbLine = true
  /-- 10_state R31, 41 R153: the panel is out of reset between steps. -/
  rst_high : s.rst = .high
  /-- 10_state R31: the LED output follows the backlight, where it exists. -/
  led_follows : s.led = if s.cfg.hasLedPin then s.bl else .off
  /-- Host memory is in canonical form. -/
  mem_wf : Memory.wf s.mem
  /-- The far end is in canonical form. -/
  panel_wf : s.panel.Canonical

/-- The levels of CS and RS after a trace (newest event first), or none when the trace breaks the discipline of
00_scope R13: every TX and RX lies in a CS-low interval and carries the RS level, and RS is driven only while CS is high. -/
def pinsAfter : List Event → Option (Level × Level)
  | [] => some (.high, .low)
  | e :: older =>
    match pinsAfter older with
    | none => none
    | some (cs, rs) =>
      match e with
      | .pin .cs l => some (l, rs)
      | .pin .rs l => if cs = .high then some (cs, l) else none
      | .pin .rst _ => some (cs, rs)
      | .tx r _ => if cs = .low ∧ r = rs then some (cs, rs) else none
      | .rx r _ => if cs = .low ∧ r = rs then some (cs, rs) else none
      | .lamp _ _ => some (cs, rs)
      | .delay _ => some (cs, rs)
      | .memRead _ _ => some (cs, rs)
      | .dmaStart _ _ => some (cs, rs)
      | .irqRaise _ => some (cs, rs)
      | .irqClear _ => some (cs, rs)
      | .callback _ => some (cs, rs)
      | .violation _ => some (cs, rs)

/-- The trace keeps the discipline of the wire, and the latches stand where it leaves them. -/
def WireDiscipline (s : State) : Prop :=
  pinsAfter s.traceRev = some (s.cs, s.rs)

def Event.isDmaStart : Event → Bool
  | .dmaStart _ _ => true
  | .pin _ _ => false
  | .lamp _ _ => false
  | .tx _ _ => false
  | .rx _ _ => false
  | .delay _ => false
  | .memRead _ _ => false
  | .irqRaise _ => false
  | .irqClear _ => false
  | .callback _ => false
  | .violation _ => false

/-- The element an event reads: its byte address and its value. -/
def Event.elementRead : Event → Option (Nat × Word)
  | .memRead a w => some (a, w)
  | .dmaStart _ _ => none
  | .pin _ _ => none
  | .lamp _ _ => none
  | .tx _ _ => none
  | .rx _ _ => none
  | .delay _ => none
  | .irqRaise _ => none
  | .irqClear _ => none
  | .callback _ => none
  | .violation _ => none

/-- The word an event sends as data. -/
def Event.dataSent : Event → Option Word
  | .tx .high w => some w
  | .tx .low _ => none
  | .memRead _ _ => none
  | .dmaStart _ _ => none
  | .pin _ _ => none
  | .lamp _ _ => none
  | .rx _ _ => none
  | .delay _ => none
  | .irqRaise _ => none
  | .irqClear _ => none
  | .callback _ => none
  | .violation _ => none

/-- The line whose completion condition an event raises. -/
def Event.lineRaised : Event → Option Byte
  | .irqRaise line => some line
  | .tx _ _ => none
  | .memRead _ _ => none
  | .dmaStart _ _ => none
  | .pin _ _ => none
  | .lamp _ _ => none
  | .rx _ _ => none
  | .delay _ => none
  | .irqClear _ => none
  | .callback _ => none
  | .violation _ => none

/-- The events that may lie between `DMA_START` and the handler: element reads, data words, the completion condition,
and the violations of rejected commands (43 R215). -/
def Event.duringTransfer : Event → Bool
  | .memRead _ _ => true
  | .tx .high _ => true
  | .tx .low _ => false
  | .irqRaise _ => true
  | .violation _ => true
  | .dmaStart _ _ => false
  | .pin _ _ => false
  | .lamp _ _ => false
  | .rx _ _ => false
  | .delay _ => false
  | .irqClear _ => false
  | .callback _ => false

/-- The events since the last `DMA_START`, in their order. -/
def State.sinceStart (s : State) : List Event :=
  (s.traceRev.takeWhile (fun e => !e.isDmaStart)).reverse

/-- The last `DMA_START` of the trace. -/
def State.lastStart (s : State) : Option Event :=
  s.traceRev.find? Event.isDmaStart

/-- How far an armed transfer has come (43 R215): the elements read so far are the first ones in ascending order, each
once; their values are the words sent so far and then the FIFO's; the condition was raised once if it is pending, else
not; nothing else happened but rejected commands. -/
structure TransferProgress (s : State) : Prop where
  started : s.lastStart = some (.dmaStart s.tdSrc s.tdCount)
  only : ∀ e ∈ s.sinceStart, e.duringTransfer = true
  addresses : (s.sinceStart.filterMap Event.elementRead).map Prod.fst =
    (List.range (s.tdCount.toNat - s.tdRem.toNat)).map (fun i => s.tdSrc.toNat + 2 * i)
  values : (s.sinceStart.filterMap Event.elementRead).map Prod.snd = s.sinceStart.filterMap Event.dataSent ++ s.fifo
  raised : s.sinceStart.filterMap Event.lineRaised = if s.irqPending then [s.cbLine] else []

/-- A transfer in flight is where the trace says it is. -/
def TransferInv (s : State) : Prop :=
  s.dstate = .armed → TransferProgress s

/-- A run of a command stream is over (70 R277). -/
def runOver (s : State) : Bool :=
  s.cpc == s.prog.length && s.dstate == .idle && !s.frameOpen

/-- A run has ended with a frame open: a stuck state, not a final one (70 R277). -/
def endsOpen (s : State) : Bool :=
  s.cpc == s.prog.length && s.frameOpen

/-- The state right after reset with a command stream, host memory and a schedule given from outside (log 5). -/
def State.loaded (c : Config) (prog : List Word) (mem : List Host.Cell) (turns cycle : List Turn) : State :=
  { State.resetWith c with prog := prog, mem := mem, turns := turns, cycle := cycle }

/-- The run from `s` has not stopped after `k` steps and is then at `t`. -/
def Reaches (s : State) (k : Nat) (t : State) : Prop :=
  Host.Core.run Sys2Proof.core k s = .next t

/-- The agents whose progress liveness rests on (70 R291, D45). -/
inductive Agent where
  | dma
  | shifter
  | irq
  deriving DecidableEq, Repr

/-- Whether a step of the agent is enabled (43 R211 to R214). -/
def Agent.enabled : Agent → State → Bool
  | .dma, s => dmaPushEnabled s
  | .shifter, s => !s.fifo.isEmpty
  | .irq, s => dmaDoneEnabled s || s.irqPending

/-- Whether the next step is one of the agent's, and enabled. -/
def Agent.acts (a : Agent) (s : State) : Bool :=
  match a, (takeTurn s).1 with
  | .dma, .dmaPush => dmaPushEnabled s
  | .shifter, .shift => !s.fifo.isEmpty
  | .irq, .dmaDone => dmaDoneEnabled s
  | .irq, .irqHandler => s.irqPending
  | _, _ => false

/-- The run from `s` is weakly fair to the DMA, SHIFTER and IRQ agents: "each, if continuously enabled, eventually
steps" (70 R291, D45). A premise of liveness claims, never an axiom. -/
def WeaklyFair (s : State) : Prop :=
  ∀ (a : Agent) (n : Nat), (∀ k, n ≤ k → ∃ t, Reaches s k t ∧ a.enabled t = true) →
    ∃ k, n ≤ k ∧ ∃ t, Reaches s k t ∧ a.acts t = true

/-- A cursor inside a window. -/
def inWindow (win : Window) (cur : Cursor) : Bool :=
  decide (win.hs ≤ cur.h) && decide (cur.h ≤ win.he) && decide (win.vs ≤ cur.v) && decide (cur.v ≤ win.ve)

/-- The number of cells of a window (20_memory R86). -/
def windowCells (win : Window) : Nat :=
  (win.he.toNat - win.hs.toNat + 1) * (win.ve.toNat - win.vs.toNat + 1)

/-- `AdvanceCovers` (20_memory R86): from a cell of a valid window, in entry mode 0x1018, one full pass visits every
cell of the window exactly once and returns. It is an assumption about the OPEN `AdvanceCursor`. -/
def AdvanceCovers (rule : AdvanceRule) : Prop :=
  ∀ (win : Window) (start : Cursor), validWindow win = true → inWindow win start = true →
    (∀ k < windowCells win, inWindow win ((advanceCursor rule entryModeValue win)^[k] start) = true) ∧
    (∀ cell, inWindow win cell = true →
      ∃! k, k < windowCells win ∧ (advanceCursor rule entryModeValue win)^[k] start = cell) ∧
    (advanceCursor rule entryModeValue win)^[windowCells win] start = start

/-- The engine can take an ordinary command: no transfer, no open frame (60 R245), and, as R42.5 has it, no word waits. -/
structure Ready (s : State) : Prop where
  idle : s.dstate = .idle
  closed : s.frameOpen = false
  drained : s.fifo = []

/-- The instruction is rejected with the violation `v` (60 R243). -/
def Rejects (i : Instr) (v : Violation) (s : State) : Prop :=
  exec i s = .next (raise v s)

/-- The rejections of an ordinary command: `E_BUSY` during a transfer, else `E_FRAME` with a frame open (60 R245). -/
def RejectedUnlessIdle (i : Instr) : Prop :=
  ∀ s, (s.dstate ≠ .idle → Rejects i .busy s) ∧ (s.dstate = .idle → s.frameOpen = true → Rejects i .frame s)

/-- Which command can raise what once it is decoded: the table of 60 R242. A wire item raises nothing. -/
def canRaise : Instr → List Violation
  | .wridx _ => [.busy, .frame]
  | .wrdat _ => [.busy, .frame]
  | .setreg _ _ => [.busy, .frame]
  | .getreg _ => [.unsupported, .busy, .frame]
  | .init => [.busy, .frame]
  | .setwin _ _ _ _ => [.busy, .frame, .window]
  | .setaddr _ _ => [.busy, .frame]
  | .fill _ => [.busy, .frame]
  | .fillrect _ _ _ _ _ => [.busy, .frame, .window]
  | .blit _ _ _ _ _ => [.busy, .frame, .buffer, .window]
  | .pxstart => [.busy, .frame]
  | .pxword _ => [.busy, .frame]
  | .pxend => [.busy, .frame]
  | .wrpix _ _ => [.busy, .frame, .buffer]
  | .dmawr _ _ => [.busy, .frame, .noinit, .buffer, .nocb]
  | .setcb _ _ => [.busy, .frame, .irqline]
  | .waitcb => [.frame]
  | .wIdx _ => []
  | .wDat _ => []
  | .wRd _ => []

def Event.isViolation : Event → Bool
  | .violation _ => true
  | .dmaStart _ _ => false
  | .pin _ _ => false
  | .lamp _ _ => false
  | .tx _ _ => false
  | .rx _ _ => false
  | .delay _ => false
  | .memRead _ _ => false
  | .irqRaise _ => false
  | .irqClear _ => false
  | .callback _ => false

/-- The lower bound a delay carries (00_scope R14). -/
def Event.delayMs : Event → Option Nat
  | .delay ms => some ms
  | .violation _ => none
  | .dmaStart _ _ => none
  | .pin _ _ => none
  | .lamp _ _ => none
  | .tx _ _ => none
  | .rx _ _ => none
  | .memRead _ _ => none
  | .irqRaise _ => none
  | .irqClear _ => none
  | .callback _ => none

/-- The frame shapes of 20_memory R71: an index frame, a data frame of any number of words, a read frame. -/
def Frame.shaped (f : Frame) : Bool :=
  match f.rs, f.words with
  | .low, [.sent w] => opField w == 0#8
  | .high, [.received _] => true
  | .high, words => words.all (fun w => match w with | .sent _ => true | .received _ => false)
  | .low, _ => false

/-- The frames of a trace (newest event first), read so far. -/
def scanOf (traceRev : List Event) : FrameScan :=
  traceRev.foldr (fun e f => f.event e) FrameScan.start

/-- Every closed frame has one of the shapes of 20_memory R71; an open one is a data frame so far; the levels read off
the trace are the latches'. -/
structure FramesShaped (s : State) : Prop where
  closed : ∀ f ∈ frames s.trace, f.shaped = true
  cs_read : (scanOf s.traceRev).cs = s.cs
  rs_read : (scanOf s.traceRev).rs = s.rs
  open_data : s.cs = .low → (scanOf s.traceRev).level = .high ∧
    ∀ w ∈ (scanOf s.traceRev).words, ∃ d, w = .sent d

/-- Which of CS, RS and the FIFO an instruction may change. -/
structure WireUse where
  cs : Bool
  rs : Bool
  fifo : Bool
  deriving DecidableEq, Repr

/-- The whole frames most commands send. -/
def WireUse.frames : WireUse := ⟨true, true, true⟩

/-- No pin and no word of the FIFO. -/
def WireUse.nothing : WireUse := ⟨false, false, false⟩

/-- The writers of CS and RS (10_state R31), and of the FIFO on the blocking paths (10_state R38). -/
def wireUse : Instr → WireUse
  | .wridx _ => .frames
  | .wrdat _ => .frames
  | .setreg _ _ => .frames
  | .getreg _ => .frames
  | .setwin _ _ _ _ => .frames
  | .setaddr _ _ => .frames
  | .pxstart => .frames
  | .pxword _ => ⟨false, false, true⟩
  | .pxend => ⟨true, false, false⟩
  | .wrpix _ _ => .frames
  | .dmawr _ _ => .frames
  | .fill _ => .frames
  | .fillrect _ _ _ _ _ => .frames
  | .blit _ _ _ _ _ => .frames
  | .init => .frames
  | .setcb _ _ => .nothing
  | .waitcb => .nothing
  | .wIdx _ => .nothing
  | .wDat _ => .nothing
  | .wRd _ => .nothing

/-- What an event is to the far end: a word sent (20_memory R82 to R84), a word read (93 U6), the reset pulse (R87). -/
def Panel.meet (c : Config) (p : Panel) : Event → Panel
  | .tx r w => Panel.consume c r w p
  | .rx _ _ => Panel.afterRead c p
  | .pin .rst .low => Panel.unknown
  | .pin .rst .high => p
  | .pin .cs _ => p
  | .pin .rs _ => p
  | .lamp _ _ => p
  | .delay _ => p
  | .memRead _ _ => p
  | .dmaStart _ _ => p
  | .irqRaise _ => p
  | .irqClear _ => p
  | .callback _ => p
  | .violation _ => p

/-- The far end consumes events in the order of the trace, each at once (20_memory R89). -/
def farEndAfter (c : Config) (events : List Event) (p : Panel) : Panel :=
  events.foldl (Panel.meet c) p

/-- The state with `events` appended to the trace and met by the far end. -/
def State.withEvents (events : List Event) (s : State) : State :=
  { s with panel := farEndAfter s.cfg events s.panel, traceRev := events.reverse ++ s.traceRev }

/-- The events of WRIDX (40 R130). -/
def indexFrameEvents (a : Byte) : List Event :=
  [.pin .rs .low, .pin .cs .low, .tx .low (indexWord a), .pin .cs .high]

/-- The events of WRDAT (40 R131). -/
def dataFrameEvents (v : Word) : List Event :=
  [.pin .rs .high, .pin .cs .low, .tx .high v, .pin .cs .high]

/-- The eight events of SETREG (40 R132). -/
def registerEvents (a : Byte) (v : Word) : List Event :=
  indexFrameEvents a ++ dataFrameEvents v

/-- The events of a table of register writes, in its order. -/
def tableEvents (table : List (Byte × Word)) : List Event :=
  table.flatMap (fun p => registerEvents p.1 p.2)

/-- The six register writes of SETWIN (42 R170). -/
def windowTable (c : Config) (win : Window) : List (Byte × Word) :=
  [(c.idx.hwinStart, win.hs), (c.idx.hwinEnd, win.he), (c.idx.vwinStart, win.vs), (c.idx.vwinEnd, win.ve),
    (c.idx.ramAddr1, win.hs), (c.idx.ramAddr2, win.vs)]

/-- The PXSTART-actions' six events (43 R200). -/
def openBurstEvents (c : Config) : List Event :=
  indexFrameEvents c.idx.gramRw ++ [.pin .rs .high, .pin .cs .low]

/-- The reads and words of a buffer of `n` elements (43 R203). -/
def bufferEvents (mem : List Host.Cell) (src n : Nat) : List Event :=
  (List.range n).flatMap (fun i =>
    [.memRead (src + 2 * i) (Memory.element mem (src + 2 * i)), .tx .high (Memory.element mem (src + 2 * i))])

/-- The events of a burst whose words (and reads) are `body` (43 R203, 42 R178). -/
def burstEvents (c : Config) (body : List Event) : List Event :=
  openBurstEvents c ++ body ++ [.pin .cs .high]

/-- The events of FILLRECT on a valid rectangle (42 R178). -/
def fillrectEvents (c : Config) (x y w h color : Word) : List Event :=
  tableEvents (windowTable c (rectWindow x y w h)) ++
    burstEvents c (List.replicate (w.toNat * h.toNat) (.tx .high color))

/-- The events of GETREG whose read frame receives `v` (40 R133). -/
def readEvents (a : Byte) (v : Word) : List Event :=
  indexFrameEvents a ++ [.pin .rs .high, .pin .cs .low, .rx .high v, .pin .cs .high]

/-- The LED pin's event, where the pin exists. -/
def ledEvents (c : Config) (l : Lamp) : List Event :=
  if c.hasLedPin then [.lamp .led l] else []

/-- The events of INIT's stages 1 and 2 (41 R151, R153). -/
def initPinEvents (c : Config) : List Event :=
  List.flatten
    [[.pin .rst .high, .pin .cs .high, .pin .rs .low, .lamp .bl .off], ledEvents c .off,
      [.delay 1, .pin .rst .low, .delay 10, .pin .rst .high, .delay 50]]

/-- The events of INIT's stages 3 to 7 (41 R154 to R158). -/
def initTableEvents (c : Config) : List Event :=
  List.flatten
    [tableEvents (c.idx.powerCtrl.map (fun i => (i, 0#16))), [.delay 40], tableEvents c.init.pwrOn, [.delay 10],
      registerEvents c.idx.powerCtrl2 c.init.boost, [.delay 50], tableEvents c.init.cfg,
      tableEvents (c.idx.gamma.zip c.init.gamma), [.delay 50], registerEvents c.idx.dispCtrl c.init.dispOn, [.delay 50]]

/-- The events of INIT's stages 1 to 8 (41 R150 to R158). -/
def initEvents (c : Config) : List Event :=
  List.flatten [initPinEvents c, initTableEvents c, [.lamp .bl .on], ledEvents c .on]

end Sys2Proof.Machine
end

