-- ==== Sys2Proof/Certificates/Slice0/Obligations.lean ====
section
/-!
DEFINITION. The statements for the provers, each from numbered rules of spec/ or derived from them.
"Ready" states are those in which an ordinary command is admitted (60_exceptions R245) with a drained FIFO, as
10_state R42.5 has it of every idle state a run reaches.
-/

open Sys2Proof
open Sys2Proof.Machine

/-! Encodings (30_encoding). -/

/-- Encoding then decoding gives back the instruction, with every operand at every value; a command also when other
words follow it (30 R100 to R106). -/
def Obligations.DecodeUndoesEncode : Prop :=
  (∀ i, decode (encode i) = some i) ∧
  ∀ i rest, i.isCommand = true → decodeCommand (commandWords i ++ rest) = .command i (commandWords i).length

/-- What decodes is exactly the encoding of what it decodes to: no word of a given direction has two meanings, no bit is
ignored (30 R100, R103 to R107). That a wire item carries its direction, which alone tells W-RD from W-DAT, is the
model's choice (log 15). -/
def Obligations.EncodeUndoesDecode : Prop :=
  (∀ code i, decode code = some i → encode i = code ∧ code.wellFormed = true) ∧
  ∀ words i len, decodeCommand words = .command i len →
    words.take len = commandWords i ∧ len = (commandWords i).length

/-- The length of a command depends on its first word alone; an undefined first word has length 1; a command cut off
by the end of the stream is illegal and consumes what remains (30 R103; the rows are those of 30 R106), and when the
HOST fetches it, it is `E_ILLEGAL`. -/
def Obligations.LengthFromFirstWord : Prop :=
  (∀ (c0 : Word) (rest : List Word),
    match CommandRow.select c0 with
    | none => ∃ why, decodeCommand (c0 :: rest) = .illegal why 1
    | some row =>
      (rest.length + 1 < row.len → decodeCommand (c0 :: rest) = .illegal .truncated (rest.length + 1)) ∧
      (row.len ≤ rest.length + 1 → ∃ i, i.isCommand = true ∧ decodeCommand (c0 :: rest) = .command i row.len)) ∧
  ∀ (s : State) (turns : List Turn) (c0 : Word) (rest : List Word) (row : CommandRow), s.turns = .host :: turns →
    s.wait = .none → s.prog.drop s.cpc = c0 :: rest → CommandRow.select c0 = some row → rest.length + 1 < row.len →
    step s = .next { raise .illegal { s with turns := turns } with cpc := s.cpc + (rest.length + 1) }

/-- A few words written out from the table of 30 R106 and the formats of R100. -/
def Obligations.WrittenWordsDecode : Prop :=
  decodeCommand [0x0122#16] = .command (.wridx 0x22#8) 1 ∧
  decodeCommand [0x03FF#16, 0xFFFF#16] = .command (.setreg 0xFF#8 0xFFFF#16) 2 ∧
  decodeCommand [0x1000#16, 0x000A#16, 0x0014#16, 0x001E#16, 0x0028#16] = .command (.setwin 10#16 20#16 30#16 40#16) 5 ∧
  decodeCommand [0x2300#16, 0x0100#16, 0x2000#16, 0x0003#16, 0x0000#16] = .command (.wrpix 0x20000100#32 3#32) 5 ∧
  decodeCommand [0x4101#16, 0x0301#16, 0x1000#16] = .command (.setcb 1#8 0x10000301#32) 3 ∧
  decodeWire .sent 0x00022#17 = some (.wIdx 0x22#8) ∧
  decodeWire .sent 0x1F800#17 = some (.wDat 0xF800#16)

/-! A step. -/

/-- The turn that comes next is the schedule's first, or the first of the round when the schedule is used up; it is
taken off, and the agent acts on the rest (the model's choice of log 3). -/
def Obligations.StepTakesNextTurn : Prop :=
  ∀ s : State,
    (∀ t rest, s.turns = t :: rest → step s = runTurn exec t { s with turns := rest }) ∧
    (∀ t rest, s.turns = [] → s.cycle = t :: rest → step s = runTurn exec t { s with turns := rest }) ∧
    (s.turns = [] → s.cycle = [] → step s = runTurn exec .host s)

/-- The HOST's turn, in no WAITCB, runs the command whose words stand at `cpc`, and moves `cpc` past it when the ENGINE
returns, rejected or not (10_state R33); only a WAITCB that is admitted while `dstate` is not `Idle` holds (43 R209; its
later turns are `WaitcbRule`'s). A callback's turn does the same with the words the callback has issued so far, from
whatever state the handler left, and leaves `cpc` alone (60 R250, R251; log 18); an illegal command of the callback is
`E_ILLEGAL` (30 R107). With no word left either turn passes (log 4). The PANEL's turn runs the received word when a read
is in progress, and else passes (log 14). -/
def Obligations.StepRunsDecodedCommand : Prop :=
  (∀ (s : State) (rest : List Turn), s.turns = .host :: rest → s.wait = .none →
    (∀ i len, decodeCommand (s.prog.drop s.cpc) = .command i len → step s =
      match exec i { s with turns := rest } with
      | .next t =>
        .next (if i = .waitcb ∧ s.dstate ≠ .idle ∧ s.frameOpen = false then { t with wait := .holding }
          else { t with cpc := t.cpc + len })
      | .fault f => .fault f
      | .refused r => .refused r) ∧
    (s.prog.drop s.cpc = [] → step s = .next { s with turns := rest })) ∧
  (∀ (s : State) (rest : List Turn) (words : List Word), s.turns = .callback words :: rest →
    s.cbWait = .none →
    (∀ i len, decodeCommand (s.cbProg ++ words) = .command i len → step s =
      match exec i { s with turns := rest, cbProg := s.cbProg ++ words } with
      | .next t =>
        .next (if i = .waitcb ∧ s.dstate ≠ .idle ∧ s.frameOpen = false then { t with cbWait := .holding }
          else { t with cbProg := t.cbProg.drop len })
      | .fault f => .fault f
      | .refused r => .refused r) ∧
    (∀ why len, decodeCommand (s.cbProg ++ words) = .illegal why len → step s = .next
      { raise .illegal { s with turns := rest } with cbProg := (s.cbProg ++ words).drop len }) ∧
    (s.cbProg ++ words = [] → step s = .next { s with turns := rest })) ∧
  ∀ (s : State) (rest : List Turn) (v : Word), s.turns = .panelDrives v :: rest →
    (s.cfg.readSupport = true → s.cs = .low → s.rs = .high → s.dstate = .idle → s.frameOpen = false →
      step s = exec (.wRd v) { s with turns := rest }) ∧
    (¬(s.cfg.readSupport = true ∧ s.cs = .low ∧ s.rs = .high ∧ s.dstate = .idle ∧ s.frameOpen = false) →
      step s = .next { s with turns := rest })

/-- A first word that matches no row is illegal: it sends nothing, changes nothing but the fault registers, raises
`E_ILLEGAL`, and is one word long (30 R107). The trace and `cpc` record that. -/
def Obligations.IllegalWordRejected : Prop :=
  ∀ (s : State) (turns : List Turn) (c0 : Word) (rest : List Word), s.turns = .host :: turns →
    s.wait = .none → s.prog.drop s.cpc = c0 :: rest → CommandRow.select c0 = none →
    step s = .next
      { s with
        turns := turns
        cpc := s.cpc + 1
        err := true
        errCode := if s.err then s.errCode else 1#8
        traceRev := .violation .illegal :: s.traceRev }

/-! The register protocol framer (40_register_protocol). -/

/-- WRIDX (40 R130). -/
def Obligations.WridxRule : Prop :=
  ∀ a, encode (.wridx a) = .command [firstWord 0x01#8 a] ∧ RejectedUnlessIdle (.wridx a) ∧
    ∀ s, Ready s → exec (.wridx a) s = .next
      { s with
        cs := .high
        rs := .low
        panel := { s.panel with ir := some a }
        traceRev := (indexFrameEvents a).reverse ++ s.traceRev }

/-- WRDAT (40 R131): the far end gets the data word at its latched index. -/
def Obligations.WrdatRule : Prop :=
  ∀ v, encode (.wrdat v) = .command [0x0200#16, v] ∧ RejectedUnlessIdle (.wrdat v) ∧
    ∀ s, Ready s → exec (.wrdat v) s = .next
      { s with
        cs := .high
        rs := .high
        panel := Panel.dataWord s.cfg v s.panel
        traceRev := (dataFrameEvents v).reverse ++ s.traceRev }

/-- SETREG (40 R132): WRIDX's four events, then WRDAT's, contiguous; the far end latches the index and takes the word. -/
def Obligations.SetregRule : Prop :=
  ∀ a v, encode (.setreg a v) = .command [firstWord 0x03#8 a, v] ∧ RejectedUnlessIdle (.setreg a v) ∧
    ∀ s, Ready s → exec (.setreg a v) s = .next
      { s with
        cs := .high
        rs := .high
        panel := Panel.dataWord s.cfg v { s.panel with ir := some a }
        traceRev := (indexFrameEvents a ++ dataFrameEvents v).reverse ++ s.traceRev }

/-- GETREG (40 R133): rejected without read support, whatever else holds; else the index frame and a read frame, whose
word goes to `result`. A genuine panel answers the driver code (20_memory R88). At the far end the index is latched, and
the cursor is lost when it is the GRAM register's; nothing else there changes (93 U6). -/
def Obligations.GetregRule : Prop :=
  ∀ a, encode (.getreg a) = .command [firstWord 0x04#8 a] ∧
    ∀ s, (s.cfg.readSupport = false → Rejects (.getreg a) .unsupported s) ∧
      (s.cfg.readSupport = true → s.dstate ≠ .idle → Rejects (.getreg a) .busy s) ∧
      (s.cfg.readSupport = true → s.dstate = .idle → s.frameOpen = true → Rejects (.getreg a) .frame s) ∧
      (s.cfg.readSupport = true → Ready s → ∃ v,
        (s.cfg.panelGenuine = true → a = s.cfg.idx.driverCode → v = 0x9225#16) ∧
        exec (.getreg a) s = .next
          { s with
            cs := .high
            rs := .high
            result := v.setWidth 32
            draws := s.draws + 1
            panel :=
              { s.panel with
                ir := some a
                curH := if a = s.cfg.idx.gramRw then none else s.panel.curH
                curV := if a = s.cfg.idx.gramRw then none else s.panel.curV }
            traceRev := (readEvents a v).reverse ++ s.traceRev })

/-! The far end (20_memory), as the wire items meet it. -/

/-- An index word latches the index; it persists, since a data word to the GRAM register or to any register keeps it,
but for the soft-reset write (20_memory R82; log 12). The reset pulse makes the index latch, every register, every cell
and the cursor unknown (20_memory R87; GRAM is treated as unknown there too). -/
def Obligations.IndexLatchAndResetPulse : Prop :=
  (∀ s, (driveRst .low s).panel.ir = none ∧ (∀ i, (driveRst .low s).panel.readReg i = none) ∧
    (∀ h v, (driveRst .low s).panel.readGram h v = none) ∧ (driveRst .low s).panel.cur = none ∧
    (driveRst .high s).panel = s.panel) ∧
  ∀ (c : Config) (p : Panel) (w : Word),
    Panel.consume c .low w p = { p with ir := some (w.extractLsb' 0 8) } ∧
    ∀ i, p.ir = some i → ¬(i = idxSoftReset ∧ w = softResetMagic ∧ i ≠ c.idx.gramRw) →
      (Panel.consume c .high w p).ir = some i

/-- A data word to a register other than the GRAM register stores it there, moves the cursor's half when the register
is a RAM-address register, and leaves every other register and every pixel alone (20_memory R83); the soft-reset write
leaves nothing known (93 U10; log 12), and so does a data word with no index latched (93 U3). -/
def Obligations.DataWordWritesRegister : Prop :=
  ∀ (c : Config) (p : Panel) (w : Word),
    (p.ir = none → Panel.consume c .high w p = Panel.unknown) ∧
    ∀ i, p.ir = some i → i ≠ c.idx.gramRw →
      (i = idxSoftReset → w = softResetMagic → Panel.consume c .high w p = Panel.unknown) ∧
      (¬(i = idxSoftReset ∧ w = softResetMagic) →
        (Panel.consume c .high w p).readReg i = some w ∧
        (∀ j, j ≠ i → (Panel.consume c .high w p).readReg j = p.readReg j) ∧
        (Panel.consume c .high w p).gram = p.gram ∧
        (Panel.consume c .high w p).curH = (if i = c.idx.ramAddr1 then some w else p.curH) ∧
        (Panel.consume c .high w p).curV = (if i = c.idx.ramAddr2 then some w else p.curV))

/-- A pixel word at a known cursor on the screen is written there and nowhere else, no register changes, and the cursor
steps by `AdvanceCursor` when the entry mode and the window are known, else it is lost (20_memory R84); with the cursor
unknown or off the screen every cell and the cursor are lost (93 U4). -/
def Obligations.PixelWordWritesCell : Prop :=
  ∀ (c : Config) (p : Panel) (w : Word), p.ir = some c.idx.gramRw →
    (Panel.consume c .high w p).reg = p.reg ∧
    (∀ cur, p.cur = some cur → cur.h.toNat < 176 → cur.v.toNat < 220 →
      (Panel.consume c .high w p).readGram cur.h cur.v = some w ∧
      (∀ h v, h.toNat < 176 → v.toNat < 220 → (h ≠ cur.h ∨ v ≠ cur.v) →
        (Panel.consume c .high w p).readGram h v = p.readGram h v) ∧
      (∀ mode win, p.readReg c.idx.entryMode = some mode → p.win c = some win →
        (Panel.consume c .high w p).cur = some (advanceCursor c.advance mode win cur)) ∧
      (p.readReg c.idx.entryMode = none ∨ p.win c = none → (Panel.consume c .high w p).cur = none)) ∧
    (p.cur = none ∨ (∃ cur, p.cur = some cur ∧ (176 ≤ cur.h.toNat ∨ 220 ≤ cur.v.toNat)) →
      (Panel.consume c .high w p).cur = none ∧ ∀ h v, (Panel.consume c .high w p).readGram h v = none)

/-- The wire items inside a CS-low interval at their RS level (30 R100): W-IDX and W-DAT are one `TX` the far end
consumes; W-RD is one `RX`. A read loses the far end's cursor when the GRAM register is latched (93 U6) or no index is
known (log 13, the model's deduction), and leaves the latch, the registers and the GRAM. Nothing else changes. That a
wire item is an instruction by itself, and that a received word is taken whatever it is, also where R88's law excludes
it, is the model's choice (logs 14 and 29). -/
def Obligations.WireItemsRun : Prop :=
  ∀ s : State, s.cs = .low →
    (∀ a, s.rs = .low → exec (.wIdx a) s = .next
      { s with panel := { s.panel with ir := some a }, traceRev := .tx .low (indexWord a) :: s.traceRev }) ∧
    (∀ d, s.rs = .high → exec (.wDat d) s = .next
      { s with panel := Panel.consume s.cfg .high d s.panel, traceRev := .tx .high d :: s.traceRev }) ∧
    (∀ v, s.rs = .high → s.cfg.readSupport = true →
      (s.panel.ir = some s.cfg.idx.gramRw ∨ s.panel.ir = none → exec (.wRd v) s = .next
        { s with panel := { s.panel with curH := none, curV := none }, traceRev := .rx .high v :: s.traceRev }) ∧
      (s.panel.ir ≠ some s.cfg.idx.gramRw → s.panel.ir ≠ none → exec (.wRd v) s = .next
        { s with traceRev := .rx .high v :: s.traceRev }))

/-! The initialization sequencer (41_init_sequencer). -/

/-- INIT's stages 1 to 8 with the descriptor, in their order, for a panel without read support (41 R151, R153 to R156,
R158): the events and what they are to the far end, the pin latches, the descriptor's fixed parameters, and nothing else
of the engine; `result` is 0. The delays are 1, 10, 50, 40, 10, 50, 50, 50 ms, whatever the tables (41 R161, 70 R281).
With read support: `InitIdentification`. -/
def Obligations.InitStages : Prop :=
  encode .init = .command [0x4000#16] ∧ RejectedUnlessIdle .init ∧
  ∀ s, (initEvents s.cfg).filterMap Event.delayMs = [1, 10, 50, 40, 10, 50, 50, 50] ∧
    (Ready s → s.cfg.readSupport = false → exec .init s = .next
      { s.withEvents (initEvents s.cfg) with
        cs := .high
        rs := .high
        rst := .high
        bl := .on
        led := if s.cfg.hasLedPin then .on else s.led
        tdCfg := true
        tdWidth := 16
        tdDst := s.cfg.busDataReg
        tdDreq := s.cfg.busTxDreq
        result := 0#32 })

/-- Stage 9 (41 R159): with read support stages 1 to 8 are followed by one read of the driver code, and `result` is the
signed difference, zero exactly when the word read is 0x9225; the whole next state is given, so no fault is recorded
either way. -/
def Obligations.InitIdentification : Prop :=
  ∀ s, Ready s →
    (s.cfg.readSupport = true → ∃ v t, exec .init s = .next t ∧
      t = { s.withEvents (initEvents s.cfg ++ readEvents s.cfg.idx.driverCode v) with
        cs := .high
        rs := .high
        rst := .high
        bl := .on
        led := if s.cfg.hasLedPin then .on else s.led
        tdCfg := true
        tdWidth := 16
        tdDst := s.cfg.busDataReg
        tdDreq := s.cfg.busTxDreq
        draws := s.draws + 1
        result := t.result } ∧
      t.result.toInt = (0x9225 : Int) - (v.toNat : Int) ∧ (t.result = 0#32 ↔ v = 0x9225#16) ∧
      (s.cfg.panelGenuine = true → v = 0x9225#16)) ∧
    (s.cfg.readSupport = false → ∃ t, exec .init s = .next t ∧ t.result = 0#32 ∧ t.err = s.err ∧ t.errCode = s.errCode)

/-- INIT leaves the far end with the entry mode 0x1018, the full-screen window, a known cursor, and the backlight on
(41 R157, 70 R273), for tables and indices as 41 R152 and 10_state R40 constrain them. -/
def Obligations.InitConfiguresFarEnd : Prop :=
  ∀ s t, Ready s → s.cfg.wellFormed = true → exec .init s = .next t →
    t.panel.readReg s.cfg.idx.entryMode = some 0x1018#16 ∧
    t.panel.win s.cfg = some ⟨0#16, 175#16, 0#16, 219#16⟩ ∧
    (∃ h v, (s.cfg.idx.ramAddr1, h) ∈ s.cfg.init.cfg ∧ (s.cfg.idx.ramAddr2, v) ∈ s.cfg.init.cfg ∧
      t.panel.cur = some ⟨h, v⟩) ∧
    t.panel.readReg s.cfg.idx.dispCtrl = some s.cfg.init.dispOn ∧ t.bl = .on

/-! The display-window address generator (42_window_addressing). -/

/-- SETWIN (42 R170, R172): an invalid window is rejected and nothing is sent; a valid one is six register writes, and
with distinct indices (10_state R40) the far end then holds that window, the cursor at its start corner and the second
RAM-address index latched. -/
def Obligations.SetwinRule : Prop :=
  ∀ hs he vs ve, encode (.setwin hs he vs ve) = .command [0x1000#16, hs, he, vs, ve] ∧
    RejectedUnlessIdle (.setwin hs he vs ve) ∧
    ∀ s, (s.dstate = .idle → s.frameOpen = false →
        ¬(hs.toNat < he.toNat ∧ he.toNat < 176 ∧ vs.toNat < ve.toNat ∧ ve.toNat < 220) →
        Rejects (.setwin hs he vs ve) .window s) ∧
      (Ready s → hs.toNat < he.toNat → he.toNat < 176 → vs.toNat < ve.toNat → ve.toNat < 220 → ∃ t,
        exec (.setwin hs he vs ve) s = .next t ∧
        t = { s.withEvents (tableEvents (windowTable s.cfg ⟨hs, he, vs, ve⟩)) with cs := .high, rs := .high } ∧
        (s.cfg.wellFormed = true → t.panel.win s.cfg = some ⟨hs, he, vs, ve⟩ ∧ t.panel.cur = some ⟨hs, vs⟩ ∧
          t.panel.ir = some s.cfg.idx.ramAddr2))

/-- SETADDR (42 R171): the two RAM-address registers are written, with no bounds check; with distinct indices
(10_state R40) the far end's cursor is then `(x, y)`, on or off the screen, and its window is as before. -/
def Obligations.SetaddrRule : Prop :=
  ∀ x y, encode (.setaddr x y) = .command [0x1100#16, x, y] ∧ RejectedUnlessIdle (.setaddr x y) ∧
    ∀ s, Ready s → ∃ t, exec (.setaddr x y) s = .next t ∧
      t = { s.withEvents (registerEvents s.cfg.idx.ramAddr1 x ++ registerEvents s.cfg.idx.ramAddr2 y) with
        cs := .high
        rs := .high } ∧
      (s.cfg.wellFormed = true → t.panel.cur = some ⟨x, y⟩ ∧ t.panel.win s.cfg = s.panel.win s.cfg ∧
        t.panel.ir = some s.cfg.idx.ramAddr2)

/-- SETWIN leaves the far end with that window and the cursor at its start corner; SETADDR then puts the cursor at its
operands; after SETADDR to the start corner the next pixel word lands exactly there (20_memory R85; 42 R170, R171). -/
def Obligations.NextPixelAtStartCorner : Prop :=
  ∀ (s : State) (win : Window) (color : Word), Ready s → s.cfg.wellFormed = true → validWindow win = true →
    ∃ t u z,
      exec (.setwin win.hs win.he win.vs win.ve) s = .next t ∧
      t.panel.win s.cfg = some win ∧ t.panel.cur = some ⟨win.hs, win.vs⟩ ∧
      (∀ x y, ∃ w, exec (.setaddr x y) t = .next w ∧ w.panel.cur = some ⟨x, y⟩) ∧
      exec (.setaddr win.hs win.vs) t = .next u ∧
      u.panel.win s.cfg = some win ∧ u.panel.cur = some ⟨win.hs, win.vs⟩ ∧
      exec (.setreg s.cfg.idx.gramRw color) u = .next z ∧
      z.panel.readGram win.hs win.vs = some color

/-- A rectangle is valid exactly when its window, computed in 16-bit modular arithmetic, is valid; then the window is
`(y, y+h-1, 220-x-w, 219-x)` over the integers (42 R175). -/
def Obligations.RectWindowRule : Prop :=
  ∀ x y w h : Word,
    (validRect x y w h = true ↔ 2 ≤ w.toNat ∧ 2 ≤ h.toNat ∧ x.toNat + w.toNat ≤ 220 ∧ y.toNat + h.toNat ≤ 176) ∧
    (validRect x y w h = true ↔ validWindow (rectWindow x y w h) = true) ∧
    (validRect x y w h = true →
      (rectWindow x y w h).hs.toNat = y.toNat ∧
      (rectWindow x y w h).he.toNat = y.toNat + h.toNat - 1 ∧
      (rectWindow x y w h).vs.toNat = 220 - x.toNat - w.toNat ∧
      (rectWindow x y w h).ve.toNat = 219 - x.toNat)

/-- FILLRECT (42 R178): an invalid rectangle is rejected; a valid one is its window, the opening of the burst, `w*h`
words of the colour, and the close, and the far end is what these words make of it. -/
def Obligations.FillrectRule : Prop :=
  ∀ x y w h color, encode (.fillrect x y w h color) = .command [0x3100#16, x, y, w, h, color] ∧
    RejectedUnlessIdle (.fillrect x y w h color) ∧
    ∀ s, (s.dstate = .idle → s.frameOpen = false → validRect x y w h = false →
        Rejects (.fillrect x y w h color) .window s) ∧
      (Ready s → validRect x y w h = true → exec (.fillrect x y w h color) s = .next
        { s.withEvents (fillrectEvents s.cfg x y w h color) with cs := .high, rs := .high })

/-- FILLRECT fills its rectangle: with the entry mode at 0x1018, and under `AdvanceCovers`, every cell of the window
holds the colour, every other cell of the screen is as before, and the cursor is back at `(hs, vs)` (42 R178). -/
def Obligations.FillrectPaintsWindow : Prop :=
  ∀ s x y w h color t, Ready s → s.cfg.wellFormed = true → AdvanceCovers s.cfg.advance →
    s.panel.readReg s.cfg.idx.entryMode = some 0x1018#16 → validRect x y w h = true →
    exec (.fillrect x y w h color) s = .next t →
    (∀ cell, inWindow (rectWindow x y w h) cell = true → t.panel.readGram cell.h cell.v = some color) ∧
    (∀ cell, onScreen cell = true → inWindow (rectWindow x y w h) cell = false →
      t.panel.readGram cell.h cell.v = s.panel.readGram cell.h cell.v) ∧
    t.panel.cur = some ⟨(rectWindow x y w h).hs, (rectWindow x y w h).vs⟩

/-- FILL is the full-screen FILLRECT, in every state; admitted, it sends 38720 words in one frame (42 R177). -/
def Obligations.FillIsFullScreenRect : Prop :=
  ∀ color, encode (.fill color) = .command [0x3000#16, color] ∧
    (∀ s, exec (.fill color) s = exec (.fillrect 0#16 0#16 220#16 176#16 color) s) ∧
    ∀ s, Ready s → exec (.fill color) s = .next
      { s.withEvents (tableEvents (windowTable s.cfg ⟨0#16, 175#16, 0#16, 219#16⟩) ++
          burstEvents s.cfg (List.replicate 38720 (.tx .high color))) with
        cs := .high
        rs := .high }

/-- BLIT (42 R179): the rectangle is checked before the buffer; admitted, it is the window and the buffer's burst, each
element read just before its word is sent, in ascending order, and the far end is what these words make of it. -/
def Obligations.BlitRule : Prop :=
  ∀ x y w h src, encode (.blit x y w h src) = .command [0x3200#16, x, y, w, h, lowHalf src, highHalf src] ∧
    RejectedUnlessIdle (.blit x y w h src) ∧
    ∀ s, (s.dstate = .idle → s.frameOpen = false → validRect x y w h = false → Rejects (.blit x y w h src) .window s) ∧
      (s.dstate = .idle → s.frameOpen = false → validRect x y w h = true →
        ¬(src.toNat ≠ 0 ∧ src.toNat % 2 = 0 ∧ src.toNat + 2 * (w.toNat * h.toNat) ≤ 2 ^ 32) →
        Rejects (.blit x y w h src) .buffer s) ∧
      (Ready s → validRect x y w h = true → src.toNat ≠ 0 → src.toNat % 2 = 0 →
        src.toNat + 2 * (w.toNat * h.toNat) ≤ 2 ^ 32 → exec (.blit x y w h src) s = .next
          { s.withEvents (tableEvents (windowTable s.cfg (rectWindow x y w h)) ++
              burstEvents s.cfg (bufferEvents s.mem src.toNat (w.toNat * h.toNat))) with
            cs := .high
            rs := .high })

/-- BLIT writes element `i` of the buffer to the cell `AdvanceCursor^i((hs, vs))`: with the entry mode at 0x1018, and
under `AdvanceCovers` (42 R179). -/
def Obligations.BlitPlacesElements : Prop :=
  ∀ s x y w h src t, Ready s → s.cfg.wellFormed = true → AdvanceCovers s.cfg.advance →
    s.panel.readReg s.cfg.idx.entryMode = some 0x1018#16 → validRect x y w h = true →
    validBuffer src (w.toNat * h.toNat) = true → exec (.blit x y w h src) s = .next t →
    ∀ i < w.toNat * h.toNat, ∀ cell,
      (advanceCursor s.cfg.advance 0x1018#16 (rectWindow x y w h))^[i]
        ⟨(rectWindow x y w h).hs, (rectWindow x y w h).vs⟩ = cell →
      t.panel.readGram cell.h cell.v = some (Memory.element s.mem (src.toNat + 2 * i))

/-- No command's behaviour depends on what the far end holds, so none depends on an earlier SETWIN or SETADDR: with
another far end, executing an instruction differs in the far end alone (42 R173). For the reads (GETREG and INIT with
READ_SUPPORT) that the result and the received word are the same too is the model's choice: each latches its own index
first, so the one law of 20_memory R88 is the same, and where no law holds the word is the free value of the counter
`draws` (log 9, DESIGN CHOICE), of which R88 and 93 U6 do not say that it is no function of the far end. -/
def Obligations.EngineIgnoresFarEnd : Prop :=
  ∀ i s t (p : Panel), exec i s = .next t → ∃ q, exec i { s with panel := p } = .next { t with panel := q }

/-! The pixel-transfer commands (43_pixel_transfer). -/

/-- PXSTART (43 R200). -/
def Obligations.PxstartRule : Prop :=
  encode .pxstart = .command [0x2000#16] ∧ RejectedUnlessIdle .pxstart ∧
  ∀ s, Ready s → exec .pxstart s = .next
    { s with
      cs := .low
      rs := .high
      frameOpen := true
      panel := { s.panel with ir := some s.cfg.idx.gramRw }
      traceRev := (openBurstEvents s.cfg).reverse ++ s.traceRev }

/-- PXWORD (43 R201): rejected without an open frame; inside one it is one data word on the wire. -/
def Obligations.PxwordRule : Prop :=
  ∀ w, encode (.pxword w) = .command [0x2100#16, w] ∧
    ∀ s, (s.dstate ≠ .idle → Rejects (.pxword w) .busy s) ∧
      (s.dstate = .idle → s.frameOpen = false → Rejects (.pxword w) .frame s) ∧
      (s.dstate = .idle → s.frameOpen = true → s.fifo = [] → s.cs = .low → s.rs = .high →
        exec (.pxword w) s = .next
          { s with panel := Panel.consume s.cfg .high w s.panel, traceRev := .tx .high w :: s.traceRev })

/-- PXEND (43 R202). PXSTART followed at once by PXEND adds the index frame and an empty data frame, and no pixel. -/
def Obligations.PxendRule : Prop :=
  encode .pxend = .command [0x2200#16] ∧
  (∀ s, (s.dstate ≠ .idle → Rejects .pxend .busy s) ∧
    (s.dstate = .idle → s.frameOpen = false → Rejects .pxend .frame s) ∧
    (s.dstate = .idle → s.frameOpen = true →
      exec .pxend s = .next { s with cs := .high, frameOpen := false, traceRev := .pin .cs .high :: s.traceRev })) ∧
  ∀ s, Ready s → (scanOf s.traceRev).cs = .high → ∃ u t, exec .pxstart s = .next u ∧ exec .pxend u = .next t ∧
    frames t.trace = frames s.trace ++ [⟨.low, [.sent (indexWord s.cfg.idx.gramRw)]⟩, ⟨.high, []⟩] ∧
    t.panel.gram = s.panel.gram

/-- WRPIX (43 R203, R204): an invalid buffer is rejected and not even the index is sent; a valid one is the opening,
the elements in ascending order, each read just before it is sent, and the close, and the far end is what these words
make of it (20_memory R82 to R84, R89). -/
def Obligations.WrpixRule : Prop :=
  ∀ src n, encode (.wrpix src n) = .command [0x2300#16, lowHalf src, highHalf src, lowHalf n, highHalf n] ∧
    RejectedUnlessIdle (.wrpix src n) ∧
    ∀ s, (s.dstate = .idle → s.frameOpen = false →
        ¬(src.toNat ≠ 0 ∧ 0 < n.toNat ∧ src.toNat % 2 = 0 ∧ src.toNat + 2 * n.toNat ≤ 2 ^ 32) →
        Rejects (.wrpix src n) .buffer s) ∧
      (Ready s → src.toNat ≠ 0 → 0 < n.toNat → src.toNat % 2 = 0 → src.toNat + 2 * n.toNat ≤ 2 ^ 32 →
        exec (.wrpix src n) s = .next
          { s.withEvents (burstEvents s.cfg (bufferEvents s.mem src.toNat n.toNat)) with cs := .high, rs := .high })

/-- DMAWR (43 R206): its checks in their order; admitted, it opens the frame, loads the descriptor, triggers it and
returns with CS low. -/
def Obligations.DmawrRule : Prop :=
  ∀ src n, encode (.dmawr src n) = .command [0x2400#16, lowHalf src, highHalf src, lowHalf n, highHalf n] ∧
    RejectedUnlessIdle (.dmawr src n) ∧
    ∀ s, (s.dstate = .idle → s.frameOpen = false → s.tdCfg = false → Rejects (.dmawr src n) .noinit s) ∧
      (s.dstate = .idle → s.frameOpen = false → s.tdCfg = true → validBuffer src n.toNat = false →
        Rejects (.dmawr src n) .buffer s) ∧
      (s.dstate = .idle → s.frameOpen = false → s.tdCfg = true → validBuffer src n.toNat = true → s.cbValid = false →
        Rejects (.dmawr src n) .nocb s) ∧
      (Ready s → s.tdCfg = true → validBuffer src n.toNat = true → s.cbValid = true → exec (.dmawr src n) s = .next
        { s with
          cs := .low
          rs := .high
          dstate := .armed
          tdSrc := src
          tdCount := n
          tdRem := n
          panel := { s.panel with ir := some s.cfg.idx.gramRw }
          traceRev := .dmaStart src n :: ((openBurstEvents s.cfg).reverse ++ s.traceRev) })

/-- SETCB (43 R208): a line outside `IRQ_LINES` is rejected; else the binding is overwritten, with no event. -/
def Obligations.SetcbRule : Prop :=
  ∀ line fn, encode (.setcb line fn) = .command [firstWord 0x41#8 line, lowHalf fn, highHalf fn] ∧
    RejectedUnlessIdle (.setcb line fn) ∧
    ∀ s, (s.dstate = .idle → s.frameOpen = false → line ∉ s.cfg.irqLines → Rejects (.setcb line fn) .irqline s) ∧
      (s.dstate = .idle → s.frameOpen = false → line ∈ s.cfg.irqLines →
        exec (.setcb line fn) s = .next { s with cbLine := line, cbFn := fn, cbValid := true })

/-- WAITCB (43 R209): no event, no effect; rejected only with a frame open, which is checked once, when it is issued. With
`dstate` at `Idle` it returns at once; else it holds, with nothing more checked and no event, until the `IrqHandler` step
(`IrqHandlerRule`) has lifted it, and then it returns: in thread context and in interrupt context alike (60 R251). Log 19
for the turns that pass. -/
def Obligations.WaitcbRule : Prop :=
  encode .waitcb = .command [0x4200#16] ∧
  ∀ s, (s.frameOpen = true → Rejects .waitcb .frame s) ∧ (s.frameOpen = false → exec .waitcb s = .next s) ∧
    (∀ turns : List Turn, s.turns = .host :: turns →
      (∀ rest : List Word, s.wait = .none → s.prog.drop s.cpc = 0x4200#16 :: rest → s.frameOpen = false →
        (s.dstate ≠ .idle → step s = .next { s with turns := turns, wait := .holding }) ∧
        (s.dstate = .idle → step s = .next { s with turns := turns, cpc := s.cpc + 1 })) ∧
      (s.wait = .holding → s.dstate ≠ .idle → step s = .next { s with turns := turns }) ∧
      (s.wait = .lifted ∨ (s.wait = .holding ∧ s.dstate = .idle) →
        step s = .next { s with turns := turns, wait := .none, cpc := s.cpc + 1 })) ∧
    ∀ (turns : List Turn) (words : List Word), s.turns = .callback words :: turns →
      (∀ rest : List Word, s.cbWait = .none → s.cbProg ++ words = 0x4200#16 :: rest → s.frameOpen = false →
        (s.dstate ≠ .idle → step s = .next { s with turns := turns, cbProg := 0x4200#16 :: rest, cbWait := .holding }) ∧
        (s.dstate = .idle → step s = .next { s with turns := turns, cbProg := rest })) ∧
      (s.cbWait = .holding → s.dstate ≠ .idle → step s = .next { s with turns := turns, cbProg := s.cbProg ++ words }) ∧
      (s.cbWait = .lifted ∨ (s.cbWait = .holding ∧ s.dstate = .idle) →
        step s = .next { s with turns := turns, cbWait := .none, cbProg := (s.cbProg ++ words).drop 1 })

/-! The agents (43_pixel_transfer R211 to R215). -/

/-- `DmaPush` (43 R211): enabled, it reads the next element in ascending order, its low byte at the lower address
(20_memory R72), into the FIFO's tail; else the turn passes (log 4). At an odd address, and past the top of memory, which
the invariant rules out, that this is what is read is the model's choice (log 27). -/
def Obligations.DmaPushRule : Prop :=
  ∀ (s : State) (turns : List Turn), s.turns = .dmaPush :: turns →
    (s.dstate = .armed → s.tdRem ≠ 0#32 → s.fifo.length < s.cfg.fifoDepth →
      ∀ (a : Nat) (v : Word), a = s.tdSrc.toNat + 2 * (s.tdCount.toNat - s.tdRem.toNat) →
        v = Memory.byte s.mem (a + 1) ++ Memory.byte s.mem a → step s = .next
          { s with
            turns := turns
            fifo := s.fifo ++ [v]
            tdRem := s.tdRem - 1#32
            traceRev := .memRead a v :: s.traceRev }) ∧
    (¬(s.dstate = .armed ∧ s.tdRem ≠ 0#32 ∧ s.fifo.length < s.cfg.fifoDepth) → step s = .next { s with turns := turns })

/-- `Shift` (43 R212): the FIFO's head is sent as a data word while CS is low and RS high, as throughout a transfer; with
an empty FIFO the turn passes. It is the run of the W-DAT item the word makes (30 R100). -/
def Obligations.ShiftRule : Prop :=
  ∀ (s : State) (turns : List Turn), s.turns = .shift :: turns →
    (∀ v rest, s.fifo = v :: rest → s.rs = .high → step s = exec (.wDat v) { s with turns := turns, fifo := rest }) ∧
    (∀ v rest, s.fifo = v :: rest → s.cs = .low → s.rs = .high → step s = .next
      { s with
        turns := turns
        fifo := rest
        panel := Panel.consume s.cfg .high v s.panel
        traceRev := .tx .high v :: s.traceRev }) ∧
    (s.fifo = [] → step s = .next { s with turns := turns })

/-- `DmaDone` (43 R213): only when every element has been moved and the FIFO is empty is the condition raised. -/
def Obligations.DmaDoneRule : Prop :=
  ∀ (s : State) (turns : List Turn), s.turns = .dmaDone :: turns →
    (s.dstate = .armed → s.tdRem = 0#32 → s.fifo = [] → s.irqPending = false → step s = .next
      { s with turns := turns, irqPending := true, traceRev := .irqRaise s.cbLine :: s.traceRev }) ∧
    (¬(s.dstate = .armed ∧ s.tdRem = 0#32 ∧ s.fifo = [] ∧ s.irqPending = false) → step s = .next { s with turns := turns })

/-- `IrqHandler` (43 R214): CS is deasserted, the condition cleared, and the callback invoked with `dstate` back at
`Idle`, in that order; a WAITCB that holds in either context is lifted (43 R209, D35; log 19). -/
def Obligations.IrqHandlerRule : Prop :=
  ∀ (s : State) (turns : List Turn), s.turns = .irqHandler :: turns →
    (s.irqPending = true → step s = .next
      { s with
        turns := turns
        cs := .high
        dstate := .idle
        irqPending := false
        wait := if s.wait = .holding then .lifted else s.wait
        cbWait := if s.cbWait = .holding then .lifted else s.cbWait
        traceRev := .callback s.cbFn :: .irqClear s.cbLine :: .pin .cs .high :: s.traceRev }) ∧
    (s.irqPending = false → step s = .next { s with turns := turns })

/-- The HOST's own store changes one element of host memory and nothing else, and that element is what a read gives
afterwards: an element's low byte stands at the lower address (20_memory R76, R72; log 11). -/
def Obligations.HostStoreRule : Prop :=
  ∀ (s : State) (turns : List Turn) (elem : BitVec 31) (v : Word), s.turns = .hostStore elem v :: turns → ∃ t,
    step s = .next t ∧ t = { s with turns := turns, mem := t.mem } ∧
    Memory.byte t.mem (2 * elem.toNat) = v.extractLsb' 0 8 ∧
    Memory.byte t.mem (2 * elem.toNat + 1) = v.extractLsb' 8 8 ∧
    Memory.element t.mem (2 * elem.toNat) = v ∧
    (∀ e, e ≠ elem.toNat → Memory.element t.mem (2 * e) = Memory.element s.mem (2 * e)) ∧
    ∀ a, a ≠ 2 * elem.toNat → a ≠ 2 * elem.toNat + 1 → Memory.byte t.mem a = Memory.byte s.mem a

/-- Re-arming: right after the handler a DMAWR with a valid buffer is admitted, from the callback itself
(43 R218, 60 R250). -/
def Obligations.CallbackMayRearm : Prop :=
  ∀ (s t : State) (turns : List Turn) (src n : DWord), EngineInv s → s.irqPending = true → s.turns = .irqHandler :: turns →
    step s = .next t → validBuffer src n.toNat = true →
    ∃ u, exec (.dmawr src n) t = .next u ∧ u.dstate = .armed ∧ u.tdSrc = src ∧ u.tdCount = n ∧ u.err = t.err

/-! Contract violations (60_exceptions). -/

/-- A command that raises a violation records it and does nothing else; a command that raises none leaves the fault
registers alone and appends no FAULT event (60 R243). -/
def Obligations.RejectedWithoutEffect : Prop :=
  (∀ v s, raise v s =
    { s with
      err := true
      errCode := if s.err = false then v.code else s.errCode
      traceRev := .violation v :: s.traceRev }) ∧
  ∀ i s t, exec i s = .next t →
    (∃ v, t = raise v s) ∨
    (t.err = s.err ∧ t.errCode = s.errCode ∧
      ∃ new, t.traceRev = new ++ s.traceRev ∧ ∀ e ∈ new, e.isViolation = false)

/-- The admission check comes before every operand check: `E_BUSY` during a transfer, then `E_FRAME`; WAITCB is exempt
from the first; GETREG's feature gate comes before both (60 R245, R246). -/
def Obligations.AdmissionChecks : Prop :=
  (∀ a s, s.cfg.readSupport = false → Rejects (.getreg a) .unsupported s) ∧
  ∀ i s, i.isCommand = true → (∀ a, i ≠ .getreg a ∨ s.cfg.readSupport = true) →
    (i = .waitcb → s.frameOpen = true → Rejects i .frame s) ∧
    (i ≠ .waitcb → s.dstate ≠ .idle → Rejects i .busy s) ∧
    (i ≠ .waitcb → s.dstate = .idle → (∀ w, i ≠ .pxword w) → i ≠ .pxend → s.frameOpen = true → Rejects i .frame s) ∧
    ((∃ w, i = .pxword w) ∨ i = .pxend → s.dstate = .idle → s.frameOpen = false → Rejects i .frame s)

/-- No command raises a violation outside its row of the table (60 R242). -/
def Obligations.RaisesOnlyItsRow : Prop :=
  ∀ i s t v, exec i s = .next t → t.traceRev = .violation v :: s.traceRev → v ∈ canRaise i

/-- The nine violations have the codes 1 to 9 of the table of 60 R241, each its own, there are no others, and the first
one is kept: once `err` is set nothing changes it or `err_code`, whichever agent steps (10_state R39). -/
def Obligations.FirstErrorKept : Prop :=
  (Violation.illegal.code = 1#8 ∧ Violation.unsupported.code = 2#8 ∧ Violation.busy.code = 3#8 ∧
    Violation.frame.code = 4#8 ∧ Violation.noinit.code = 5#8 ∧ Violation.irqline.code = 6#8 ∧
    Violation.buffer.code = 7#8 ∧ Violation.window.code = 8#8 ∧ Violation.nocb.code = 9#8) ∧
  (∀ v : Violation, 1 ≤ v.code.toNat ∧ v.code.toNat ≤ 9) ∧ (∀ v w : Violation, v.code = w.code → v = w) ∧
  ∀ s t, step s = .next t → s.err = true → t.err = true ∧ t.errCode = s.errCode

/-! State, reset and the status port (10_state). -/

/-- The engine's state after power-on reset, whatever the parameters, and `S0 = 0x00000005` (10_state R41, R45). -/
def Obligations.ResetValues : Prop :=
  ∀ c, (State.resetWith c).cs = .high ∧ (State.resetWith c).rs = .low ∧ (State.resetWith c).rst = .high ∧
    (State.resetWith c).bl = .off ∧ (State.resetWith c).led = .off ∧ (State.resetWith c).dstate = .idle ∧
    (State.resetWith c).cpc = 0 ∧ (State.resetWith c).frameOpen = false ∧ (State.resetWith c).tdCfg = false ∧
    (State.resetWith c).tdSrc = 0#32 ∧ (State.resetWith c).tdCount = 0#32 ∧ (State.resetWith c).tdRem = 0#32 ∧
    (State.resetWith c).cbValid = false ∧ (State.resetWith c).cbFn = 0#32 ∧ (State.resetWith c).cbLine = 0#8 ∧
    (State.resetWith c).irqPending = false ∧ (State.resetWith c).fifo = [] ∧ (State.resetWith c).err = false ∧
    (State.resetWith c).errCode = 0#8 ∧ (State.resetWith c).result = 0#32 ∧
    (State.resetWith c).panel = Panel.unknown ∧ (State.resetWith c).trace = [] ∧
    (State.resetWith c).readStatus .s0 = 0x00000005#32 ∧ State.reset = State.resetWith State.reset.cfg

/-- The status port shows each field at its bits, the unlisted bits read 0, and right after reset only S0 and the
constant S8 are not zero (10_state R41). -/
def Obligations.StatusPortRule : Prop :=
  (∀ c r, (State.resetWith c).readStatus r =
    match r with
    | .s0 => 0x00000005#32
    | .s8 => 0x00009225#32
    | _ => 0#32) ∧
  ∀ s : State,
    (s.readStatus .s0).getLsbD 0 = decide (s.cs = .high) ∧
    (s.readStatus .s0).getLsbD 1 = decide (s.rs = .high) ∧
    (s.readStatus .s0).getLsbD 2 = decide (s.rst = .high) ∧
    (s.readStatus .s0).getLsbD 3 = decide (s.bl = .on) ∧
    (s.readStatus .s0).getLsbD 4 = (s.cfg.hasLedPin && decide (s.led = .on)) ∧
    (s.readStatus .s0).getLsbD 5 = s.frameOpen ∧
    ((s.readStatus .s0).extractLsb' 6 2).toNat =
      (match s.dstate with | .idle => 0 | .framed => 1 | .armed => 2 | .completing => 3) ∧
    (s.readStatus .s0).getLsbD 8 = s.irqPending ∧
    (s.readStatus .s0).getLsbD 9 = s.cbValid ∧
    (s.readStatus .s0).getLsbD 10 = s.tdCfg ∧
    (s.readStatus .s0).getLsbD 11 = s.err ∧
    (∀ k, 12 ≤ k → (s.readStatus .s0).getLsbD k = false) ∧
    (s.readStatus .s1).toNat = s.errCode.toNat ∧ s.readStatus .s2 = s.result ∧ s.readStatus .s3 = s.tdSrc ∧
    s.readStatus .s4 = s.tdCount ∧ s.readStatus .s5 = s.tdRem ∧ s.readStatus .s6 = s.cbFn ∧
    (s.readStatus .s7).toNat = s.cbLine.toNat ∧ s.readStatus .s8 = 0x00009225#32

/-! Frames: what an instruction leaves unchanged. -/

/-- No instruction changes the parameters, the command stream, its index, the callback's words, the WAITCB a context is
in, the schedule or any byte of host memory (00_scope R12: the engine never writes host memory; 10_state R33: no command
writes `cpc`). -/
def Obligations.InputsUntouched : Prop :=
  ∀ i s t, exec i s = .next t →
    t.cfg = s.cfg ∧ t.prog = s.prog ∧ t.cpc = s.cpc ∧ t.cbProg = s.cbProg ∧ t.wait = s.wait ∧
    t.cbWait = s.cbWait ∧ t.turns = s.turns ∧ t.cycle = s.cycle ∧ ∀ a, Memory.byte t.mem a = Memory.byte s.mem a

/-- Each register of the engine is written only by the instructions the spec names. RST, the backlight, the LED and the
descriptor's fixed part are INIT's; the transfer's part and `dstate` DMAWR's; the binding SETCB's; `frame_open` PXSTART's
and PXEND's; `result` GETREG's and INIT's; CS, RS and the FIFO those of `wireUse`, which leave the FIFO empty; the pending
bit none's; the fault registers only a violation's, of the command's own row (10_state R31, R32, R34 to R39; 60 R242,
R243). -/
def Obligations.OnlyNamedWriters : Prop :=
  ∀ i s t, exec i s = .next t →
    (i ≠ .init → t.rst = s.rst ∧ t.bl = s.bl ∧ t.led = s.led ∧ t.tdCfg = s.tdCfg ∧ t.tdWidth = s.tdWidth ∧
      t.tdDst = s.tdDst ∧ t.tdDreq = s.tdDreq) ∧
    ((∀ src n, i ≠ .dmawr src n) → t.dstate = s.dstate ∧ t.tdSrc = s.tdSrc ∧ t.tdCount = s.tdCount ∧ t.tdRem = s.tdRem) ∧
    ((∀ line fn, i ≠ .setcb line fn) → t.cbValid = s.cbValid ∧ t.cbFn = s.cbFn ∧ t.cbLine = s.cbLine) ∧
    (i ≠ .pxstart → i ≠ .pxend → t.frameOpen = s.frameOpen) ∧
    ((∀ a, i ≠ .getreg a) → i ≠ .init → t.result = s.result ∧ t.draws = s.draws) ∧
    ((wireUse i).cs = false → t.cs = s.cs) ∧
    ((wireUse i).rs = false → t.rs = s.rs) ∧
    ((wireUse i).fifo = false → t.fifo = s.fifo) ∧
    (t.fifo = s.fifo ∨ t.fifo = []) ∧
    t.irqPending = s.irqPending ∧
    ((t.err = s.err ∧ t.errCode = s.errCode) ∨ ∃ v ∈ canRaise i, t = raise v s)

/-- Whichever agent steps: the parameters never change; a binding, once valid, stays; while a transfer is armed neither
the binding nor the descriptor's source and count changes (10_state R36; 43 R208, R219; 70 R271). -/
def Obligations.BindingAndDescriptorStable : Prop :=
  ∀ s t, step s = .next t →
    t.cfg = s.cfg ∧ t.prog = s.prog ∧ (s.cbValid = true → t.cbValid = true) ∧ (s.tdCfg = true → t.tdCfg = true) ∧
    (s.dstate = .armed → t.cbValid = s.cbValid ∧ t.cbFn = s.cbFn ∧ t.cbLine = s.cbLine ∧ t.tdSrc = s.tdSrc ∧
      t.tdCount = s.tdCount)

/-! The whole machine. -/

/-- The invariant of 10_state R42 holds right after reset, with any stream, memory in canonical form and schedule. -/
def Obligations.InvHoldsAtReset : Prop :=
  (∀ c prog mem turns cycle, Memory.wf mem → EngineInv (State.loaded c prog mem turns cycle)) ∧ EngineInv State.reset

/-- Every step of every agent keeps the invariant of 10_state R42. -/
def Obligations.StepKeepsInv : Prop :=
  ∀ s t, EngineInv s → step s = .next t → EngineInv t

/-- A step from a state with the invariant always answers a next state: no contract violation halts the machine
(60 R243), and no word is ever shifted outside its frame (20_memory R89). -/
def Obligations.StepNeverStops : Prop :=
  ∀ s, EngineInv s → ∃ t, step s = .next t

/-- So no run from reset stops, whatever the stream, host memory, schedule and parameters, and the invariant holds
after every number of steps. -/
def Obligations.RunsNeverStop : Prop :=
  ∀ c prog mem turns cycle n, Memory.wf mem →
    ∃ t, Host.Core.run Sys2Proof.core n (State.loaded c prog mem turns cycle) = .next t ∧ EngineInv t

/-- Every step keeps the discipline of the wire: every word lies in a CS-low interval and carries its RS level, RS is
never driven while CS is low, and the latches are where the trace leaves them (00_scope R13; 20_memory R71, R89). -/
def Obligations.StepKeepsWireDiscipline : Prop :=
  ∀ s t, EngineInv s → WireDiscipline s → step s = .next t → WireDiscipline t

/-- The engine emits no frame shapes but the three of 20_memory R71: an index frame of one word whose upper byte is
zero, a data frame, a read frame of one word. -/
def Obligations.StepKeepsFrameShapes : Prop :=
  ∀ s t, EngineInv s → FramesShaped s → step s = .next t → FramesShaped t

/-- Through a DMA transfer the elements are read in ascending order, each once; the words sent are those values, in
order, all as data; the condition is raised at most once; nothing else happens but rejected commands (43 R215). -/
def Obligations.StepKeepsTransfer : Prop :=
  ∀ s t, EngineInv s → TransferInv s → step s = .next t → TransferInv t

/-- When the handler runs, the whole buffer has gone out: `n` elements read in ascending order and `n` data words sent,
equal to them, before the one condition raised; then CS is deasserted, the condition cleared and the callback invoked,
once (43 R215). -/
def Obligations.HandlerEndsWholeTransfer : Prop :=
  ∀ s (turns : List Turn), EngineInv s → TransferInv s → s.irqPending = true → s.turns = .irqHandler :: turns →
    ∃ t, step s = .next t ∧ t.dstate = .idle ∧ t.cs = .high ∧
      (s.sinceStart.filterMap Event.elementRead).map Prod.fst =
        (List.range s.tdCount.toNat).map (fun i => s.tdSrc.toNat + 2 * i) ∧
      s.sinceStart.filterMap Event.dataSent = (s.sinceStart.filterMap Event.elementRead).map Prod.snd ∧
      s.sinceStart.filterMap Event.lineRaised = [s.cbLine] ∧
      s.lastStart = some (.dmaStart s.tdSrc s.tdCount) ∧
      t.trace = s.trace ++ [.pin .cs .high, .irqClear s.cbLine, .callback s.cbFn]

/-- An armed transfer ends. Under a round of turns of the three agents it ends within a bounded number of steps: the
callback fires and the state machine is `Idle` (this schedule is a weakly fair one). In every run that is weakly fair to
the three agents, whatever the HOST does meanwhile, the callback fires exactly once, after nothing but the transfer's
events, and the state machine is `Idle`; and a WAITCB that is next in the command stream returns, when the HOST too has
turns again and again, and not before that callback unless it was lifted already (43 R215, R209; 70 R291, 92 D45).
Fairness is a premise about the schedule (log 3). -/
def Obligations.FairRoundsEndTransfer : Prop :=
  ∀ s, EngineInv s → 1 ≤ s.cfg.fifoDepth → s.dstate = .armed →
    (s.turns = [] → s.cycle = [.dmaPush, .shift, .dmaDone, .irqHandler] →
      ∃ k ≤ 4 * (s.tdRem.toNat + s.fifo.length + 2), ∃ t, Host.Core.run Sys2Proof.core k s = .next t ∧
        t.dstate = .idle ∧ t.cs = .high ∧ t.traceRev.head? = some (.callback s.cbFn)) ∧
    (WeaklyFair s →
      (∃ k t events, Reaches s k t ∧ t.dstate = .idle ∧ t.cs = .high ∧
        t.trace = s.trace ++ events ++ [.pin .cs .high, .irqClear s.cbLine, .callback s.cbFn] ∧
        ∀ e ∈ events, e.duringTransfer = true) ∧
      ∀ rest, s.prog.drop s.cpc = 0x4200#16 :: rest →
        (∀ n, ∃ k, n ≤ k ∧ ∃ t, Reaches s k t ∧ (takeTurn t).1 = .host) →
        ∃ k t events, Reaches s k t ∧ t.cpc = s.cpc + 1 ∧ t.wait = .none ∧ t.trace = s.trace ++ events ∧
          (s.wait ≠ .lifted → .callback s.cbFn ∈ events))

/-- A stalled transfer never completes by itself: while neither the DMA, the SHIFTER nor the IRQ agent has a turn,
`dstate` stays `Armed` and CS stays low, whatever the HOST issues in either context or stores, and whatever the PANEL's
turn brings (43 R216). -/
def Obligations.StalledTransferStays : Prop :=
  ∀ s t (turn : Turn) (turns : List Turn), EngineInv s → s.dstate = .armed → s.turns = turn :: turns →
    turn ≠ .dmaPush → turn ≠ .shift → turn ≠ .dmaDone → turn ≠ .irqHandler → step s = .next t →
    t.dstate = .armed ∧ t.cs = .low ∧ t.tdRem = s.tdRem ∧ t.fifo = s.fifo ∧ t.irqPending = s.irqPending
end

