-- ==== Sys2Proof/Laws/Advance.lean ====
section
/-!
SUPPORT. `AdvanceCovers` (20_memory R86) holds of the candidate cursor step of 93_implementation_defined G5, so that the
claims that assume it are not empty.
-/

namespace Sys2Proof.Machine

/-- The place of a cell in the order the candidate visits a window: columns of falling `v`, in rising `h`. -/
def windowPlace (win : Window) (cell : Cursor) : Nat :=
  (cell.h.toNat - win.hs.toNat) * (win.ve.toNat - win.vs.toNat + 1) + (win.ve.toNat - cell.v.toNat)

theorem inWindow_iff {win : Window} {cell : Cursor} :
    inWindow win cell = true ↔
      win.hs.toNat ≤ cell.h.toNat ∧ cell.h.toNat ≤ win.he.toNat ∧ win.vs.toNat ≤ cell.v.toNat ∧
        cell.v.toNat ≤ win.ve.toNat := by
  simp [inWindow, BitVec.le_def, and_assoc]

theorem windowPlace_lt {win : Window} {cell : Cursor} (hc : inWindow win cell = true) :
    windowPlace win cell < windowCells win := by
  rw [inWindow_iff] at hc
  unfold windowPlace windowCells
  have h : (cell.h.toNat - win.hs.toNat) ≤ win.he.toNat - win.hs.toNat := by omega
  have hv : win.ve.toNat - cell.v.toNat < win.ve.toNat - win.vs.toNat + 1 := by omega
  generalize win.ve.toNat - win.vs.toNat + 1 = height at *
  have := Nat.mul_le_mul_right height h
  rw [Nat.add_mul, Nat.one_mul]
  omega

theorem windowPlace_inj {win : Window} {c d : Cursor} (hc : inWindow win c = true) (hd : inWindow win d = true)
    (e : windowPlace win c = windowPlace win d) : c = d := by
  rw [inWindow_iff] at hc hd
  unfold windowPlace at e
  have hpos : 0 < win.ve.toNat - win.vs.toNat + 1 := by omega
  have hv : win.ve.toNat - c.v.toNat < win.ve.toNat - win.vs.toNat + 1 := by omega
  have hv' : win.ve.toNat - d.v.toNat < win.ve.toNat - win.vs.toNat + 1 := by omega
  have e1 := congrArg (· / (win.ve.toNat - win.vs.toNat + 1)) e
  have e2 := congrArg (· % (win.ve.toNat - win.vs.toNat + 1)) e
  simp only [Nat.mul_comm _ (win.ve.toNat - win.vs.toNat + 1), Nat.mul_add_div hpos, Nat.div_eq_of_lt hv,
    Nat.div_eq_of_lt hv', Nat.mul_add_mod, Nat.mod_eq_of_lt hv, Nat.mod_eq_of_lt hv', Nat.add_zero] at e1 e2
  obtain ⟨ch, cv⟩ := c
  obtain ⟨dh, dv⟩ := d
  simp only [Cursor.mk.injEq]
  constructor <;> apply BitVec.eq_of_toNat_eq <;> simp only at * <;> omega

theorem advance_standard (win : Window) (cur : Cursor) :
    advanceCursor .entryModeBits entryModeValue win cur =
      if win.vs < cur.v then ⟨cur.h, cur.v - 1#16⟩
      else ⟨if cur.h < win.he then cur.h + 1#16 else win.hs, win.ve⟩ := by
  have h3 : entryModeValue.getLsbD 3 = true := by decide
  have h4 : entryModeValue.getLsbD 4 = true := by decide
  have h5 : entryModeValue.getLsbD 5 = false := by decide
  simp only [advanceCursor, candidateAdvance, h3, h4, h5, stepCounter]
  by_cases hv : win.vs < cur.v <;> by_cases hh : cur.h < win.he <;> simp [hv, hh]

/-- One step of the candidate goes to the next place of the window, round to the first. -/
theorem windowPlace_advance {win : Window} {cur : Cursor} (hc : inWindow win cur = true) :
    inWindow win (advanceCursor .entryModeBits entryModeValue win cur) = true ∧
      windowPlace win (advanceCursor .entryModeBits entryModeValue win cur) =
        (windowPlace win cur + 1) % windowCells win := by
  rw [advance_standard]
  have hlt := windowPlace_lt hc
  rw [inWindow_iff] at hc ⊢
  split
  · rename_i hv
    rw [BitVec.lt_def] at hv
    have e : (cur.v - 1#16).toNat = cur.v.toNat - 1 := by
      have := cur.v.isLt
      simp [BitVec.toNat_sub]
      omega
    refine ⟨by simp only [e]; omega, ?_⟩
    have hn : windowPlace win ⟨cur.h, cur.v - 1#16⟩ = windowPlace win cur + 1 := by
      simp only [windowPlace, e]
      omega
    have hin : inWindow win ⟨cur.h, cur.v - 1#16⟩ = true := by
      rw [inWindow_iff]
      simp only [e]
      omega
    rw [hn, Nat.mod_eq_of_lt (hn ▸ windowPlace_lt hin)]
  · rename_i hv
    rw [BitVec.lt_def] at hv
    have ev : cur.v.toNat = win.vs.toNat := by omega
    split
    · rename_i hh
      rw [BitVec.lt_def] at hh
      have e : (cur.h + 1#16).toNat = cur.h.toNat + 1 := by
        have := win.he.isLt
        simp [BitVec.toNat_add]
        omega
      refine ⟨by simp only [e]; omega, ?_⟩
      have hin : inWindow win ⟨cur.h + 1#16, win.ve⟩ = true := by
        rw [inWindow_iff]
        simp only [e]
        omega
      have hn : windowPlace win ⟨cur.h + 1#16, win.ve⟩ = windowPlace win cur + 1 := by
        simp only [windowPlace, e, ev, Nat.sub_self, Nat.add_zero]
        rw [show cur.h.toNat + 1 - win.hs.toNat = cur.h.toNat - win.hs.toNat + 1 by omega, Nat.add_mul, Nat.one_mul]
        omega
      rw [hn, Nat.mod_eq_of_lt (hn ▸ windowPlace_lt hin)]
    · rename_i hh
      rw [BitVec.lt_def] at hh
      have eh : cur.h.toNat = win.he.toNat := by omega
      refine ⟨by simp only; omega, ?_⟩
      have hl : windowPlace win cur + 1 = windowCells win := by
        simp only [windowPlace, windowCells, ev, eh, Nat.add_mul, Nat.one_mul]
        omega
      rw [hl, Nat.mod_self]
      simp [windowPlace]

/-- `k` steps of the candidate go `k` places on. -/
theorem windowPlace_iterate {win : Window} {start : Cursor} (hs : inWindow win start = true) (k : Nat) :
    inWindow win ((advanceCursor .entryModeBits entryModeValue win)^[k] start) = true ∧
      windowPlace win ((advanceCursor .entryModeBits entryModeValue win)^[k] start) =
        (windowPlace win start + k) % windowCells win := by
  induction k with
  | zero => exact ⟨hs, (Nat.mod_eq_of_lt (windowPlace_lt hs)).symm⟩
  | succ k ih =>
    obtain ⟨hin, hp⟩ := windowPlace_advance ih.1
    rw [Function.iterate_succ_apply']
    refine ⟨hin, ?_⟩
    rw [hp, ih.2, Nat.mod_add_mod, Nat.add_assoc]

/-- The candidate of 93 G5 has the property 20_memory R86 assumes of the OPEN cursor step. -/
theorem advanceCovers_entryModeBits : AdvanceCovers .entryModeBits := by
  intro win start _ hs
  have hw := windowPlace_iterate hs
  have h0 := windowPlace_lt hs
  refine ⟨fun k _ => (hw k).1, fun cell hc => ?_, ?_⟩
  · have h1 := windowPlace_lt hc
    have place : ∀ k, k < windowCells win → (advanceCursor .entryModeBits entryModeValue win)^[k] start = cell →
        (windowPlace win start + k) % windowCells win = windowPlace win cell := fun k _ e => by rw [← (hw k).2, e]
    have key : ∀ k, (windowPlace win start + k) % windowCells win = windowPlace win cell →
        (advanceCursor .entryModeBits entryModeValue win)^[k] start = cell := fun k e =>
      windowPlace_inj (hw k).1 hc ((hw k).2.trans e)
    have solve : ∀ a b N : Nat, a < N → b < N → ∃ k, k < N ∧ (a + k) % N = b := by
      intro a b N ha hb
      rcases Nat.lt_or_ge b a with h | h
      · refine ⟨N - a + b, by omega, ?_⟩
        rw [show a + (N - a + b) = b + N by omega, Nat.add_mod_right, Nat.mod_eq_of_lt hb]
      · exact ⟨b - a, by omega, by rw [show a + (b - a) = b by omega, Nat.mod_eq_of_lt hb]⟩
    obtain ⟨k, hk, ek⟩ := solve _ _ _ h0 h1
    refine ⟨k, ⟨hk, key k ek⟩, ?_⟩
    rintro j ⟨hj, ej⟩
    have e := (place j hj ej).trans ek.symm
    exact Nat.ModEq.eq_of_lt_of_lt (Nat.ModEq.add_left_cancel' _ e) hj hk
  · refine windowPlace_inj (hw _).1 hs ((hw _).2.trans ?_)
    rw [Nat.add_mod_right, Nat.mod_eq_of_lt h0]

end Sys2Proof.Machine
end

