-- ==== Sys2Proof/Laws/Cells.lean ====
section
/-!
SUPPORT. Laws of the sparse storage: read after write, and the canonical form is kept.
-/

namespace Sys2Proof.Machine

variable {β : Type}

@[simp] theorem Cells.get_put_self (k : Nat) (v : β) (l : List (Nat × β)) : Cells.get k (Cells.put k v l) = some v := by
  induction l with
  | nil => simp [Cells.put, Cells.get]
  | cons c rest ih =>
    obtain ⟨a, b⟩ := c
    simp only [Cells.put]
    split
    · simp [Cells.get]
    · split
      · simp [Cells.get]
      · rename_i h
        simp [Cells.get, Ne.symm h, ih]

theorem Cells.get_put_ne {k j : Nat} (h : j ≠ k) (v : β) (l : List (Nat × β)) :
    Cells.get j (Cells.put k v l) = Cells.get j l := by
  induction l with
  | nil => simp [Cells.put, Cells.get, Ne.symm h]
  | cons c rest ih =>
    obtain ⟨a, b⟩ := c
    simp only [Cells.put]
    split
    · simp [Cells.get, Ne.symm h]
    · split
      · rename_i e
        subst e
        simp [Cells.get, Ne.symm h]
      · simp [Cells.get, ih]

@[simp] theorem Cells.get_erase_self (k : Nat) (l : List (Nat × β)) : Cells.get k (Cells.erase k l) = none := by
  induction l with
  | nil => rfl
  | cons c rest ih =>
    obtain ⟨a, b⟩ := c
    simp only [Cells.erase]
    split
    · exact ih
    · rename_i h
      simp [Cells.get, h, ih]

theorem Cells.get_erase_ne {k j : Nat} (h : j ≠ k) (l : List (Nat × β)) :
    Cells.get j (Cells.erase k l) = Cells.get j l := by
  induction l with
  | nil => rfl
  | cons c rest ih =>
    obtain ⟨a, b⟩ := c
    simp only [Cells.erase]
    split
    · rename_i e
      subst e
      simp [Cells.get, Ne.symm h, ih]
    · simp [Cells.get, ih]

theorem Cells.mem_put {k : Nat} {v : β} {l : List (Nat × β)} {c : Nat × β} (h : c ∈ Cells.put k v l) :
    c = (k, v) ∨ c ∈ l := by
  induction l with
  | nil => simpa [Cells.put] using h
  | cons d rest ih =>
    obtain ⟨a, b⟩ := d
    simp only [Cells.put] at h
    split at h
    · simpa using h
    · split at h
      · simp only [List.mem_cons] at h ⊢
        tauto
      · simp only [List.mem_cons] at h ⊢
        rcases h with h | h
        · tauto
        · rcases ih h with h | h <;> tauto

theorem Cells.mem_erase {k : Nat} {l : List (Nat × β)} {c : Nat × β} (h : c ∈ Cells.erase k l) : c ∈ l := by
  induction l with
  | nil => simp [Cells.erase] at h
  | cons d rest ih =>
    obtain ⟨a, b⟩ := d
    simp only [Cells.erase] at h
    split at h
    · exact List.mem_cons_of_mem _ (ih h)
    · simp only [List.mem_cons] at h ⊢
      exact h.imp_right ih

theorem Cells.wf_put {l : List (Nat × β)} (hl : Cells.wf l) (k : Nat) (v : β) : Cells.wf (Cells.put k v l) := by
  induction l with
  | nil => simp [Cells.put, Cells.wf]
  | cons d rest ih =>
    obtain ⟨a, b⟩ := d
    obtain ⟨ha, hr⟩ := List.pairwise_cons.1 hl
    simp only [Cells.put]
    split
    · rename_i hk
      refine List.pairwise_cons.2 ⟨fun c hc => ?_, hl⟩
      rcases List.mem_cons.1 hc with rfl | hc
      · exact hk
      · exact hk.trans (ha c hc)
    · split
      · rename_i e
        subst e
        exact List.pairwise_cons.2 ⟨ha, hr⟩
      · refine List.pairwise_cons.2 ⟨fun c hc => ?_, ih hr⟩
        rcases Cells.mem_put hc with rfl | hc
        · simp only; omega
        · exact ha c hc

theorem Cells.wf_erase {l : List (Nat × β)} (hl : Cells.wf l) (k : Nat) : Cells.wf (Cells.erase k l) := by
  induction l with
  | nil => simp [Cells.erase, Cells.wf]
  | cons d rest ih =>
    obtain ⟨a, b⟩ := d
    obtain ⟨ha, hr⟩ := List.pairwise_cons.1 hl
    simp only [Cells.erase]
    split
    · exact ih hr
    · exact List.pairwise_cons.2 ⟨fun c hc => ha c (Cells.mem_erase hc), ih hr⟩

end Sys2Proof.Machine
end

