-- ==== Sys2Proof/Laws/Decode.lean ====
section
/-!
SUPPORT. Laws of the fields a command word and a wire item are made of (30_encoding R100 to R105).
-/

namespace Sys2Proof

@[simp] theorem opField_firstWord (op a : Byte) : opField (firstWord op a) = op :=
  BitVec.extractLsb'_append_eq_left

@[simp] theorem immField_firstWord (op a : Byte) : immField (firstWord op a) = a :=
  BitVec.extractLsb'_append_eq_right

theorem word_of_fields (w : Word) : opField w ++ immField w = w := by
  unfold opField immField
  apply BitVec.eq_of_getLsbD_eq
  intro i hi
  erw [BitVec.getLsbD_append]
  split <;> simp <;> grind

/-- A first word is its two fields (30 R102). -/
theorem firstWord_fields (w : Word) : firstWord (opField w) (immField w) = w :=
  word_of_fields w

@[simp] theorem joinHalves_halves (d : DWord) : joinHalves (lowHalf d) (highHalf d) = d := by
  unfold joinHalves lowHalf highHalf
  apply BitVec.eq_of_getLsbD_eq
  intro i hi
  erw [BitVec.getLsbD_append]
  split <;> simp <;> grind

@[simp] theorem lowHalf_joinHalves (lo hi : Word) : lowHalf (joinHalves lo hi) = lo :=
  BitVec.extractLsb'_append_eq_right

@[simp] theorem highHalf_joinHalves (lo hi : Word) : highHalf (joinHalves lo hi) = hi :=
  BitVec.extractLsb'_append_eq_left

@[simp] theorem itemWord_wireItem (r : Level) (w : Word) : itemWord (wireItem r w) = w :=
  BitVec.extractLsb'_append_eq_right

@[simp] theorem itemLevel_wireItem (r : Level) (w : Word) : itemLevel (wireItem r w) = r := by
  have h : (wireItem r w).extractLsb' 16 1 = r.bit := BitVec.extractLsb'_append_eq_left
  unfold itemLevel
  rw [h]
  cases r <;> rfl

@[simp] theorem opField_indexWord (a : Byte) : opField (indexWord a) = 0#8 := by
  unfold opField indexWord
  apply BitVec.eq_of_getLsbD_eq
  intro i hi
  simp

@[simp] theorem immField_indexWord (a : Byte) : immField (indexWord a) = a := by
  unfold immField indexWord
  apply BitVec.eq_of_getLsbD_eq
  intro i hi
  simp [hi]
  omega

@[simp] theorem Opcode.ofByte_byte (op : Opcode) : Opcode.ofByte op.byte = some op := by
  cases op <;> rfl

theorem Opcode.byte_ofByte {b : Byte} {op : Opcode} (h : Opcode.ofByte b = some op) : op.byte = b := by
  unfold Opcode.ofByte at h
  split at h <;> simp_all <;> subst h <;> apply BitVec.eq_of_toNat_eq <;> simp_all [Opcode.byte]

theorem and_ones (b : Byte) : b &&& 0xFF#8 = b :=
  BitVec.and_allOnes

theorem firstWord_and (b a m n : Byte) : firstWord b a &&& firstWord m n = firstWord (b &&& m) (a &&& n) :=
  BitVec.and_append

theorem firstWord_inj {b a b' a' : Byte} : firstWord b a = firstWord b' a' ↔ b = b' ∧ a = a' :=
  ⟨fun h => ⟨by simpa using congrArg opField h, by simpa using congrArg immField h⟩, fun ⟨h, k⟩ => h ▸ k ▸ rfl⟩

theorem firstWord_masked (b a op : Byte) : (firstWord b a &&& firstWord 0xFF#8 0x00#8 == firstWord op 0x00#8) = (b == op) := by
  rw [firstWord_and, Bool.eq_iff_iff]
  simp [firstWord_inj, and_ones]

theorem firstWord_whole (b a op : Byte) :
    (firstWord b a &&& firstWord 0xFF#8 0xFF#8 == firstWord op 0x00#8) = (b == op && a == 0#8) := by
  rw [firstWord_and, Bool.eq_iff_iff]
  simp [firstWord_inj, and_ones]

/-- The row of 30 R106 an opcode has. -/
def Opcode.row (op : Opcode) : CommandRow :=
  ⟨firstWord 0xFF#8 (if op.hasImm then 0x00#8 else 0xFF#8), firstWord op.byte 0x00#8, op.len⟩

/-- The opcodes in the order of 30 R106. -/
def Opcode.all : List Opcode :=
  [.wridx, .wrdat, .setreg, .getreg, .setwin, .setaddr, .pxstart, .pxword, .pxend, .wrpix, .dmawr, .fill, .fillrect,
    .blit, .init, .setcb, .waitcb]

theorem commandRows_eq : commandRows = Opcode.all.map Opcode.row := by decide

/-- A first word selects the row of its opcode, unless its reserved byte is not zero (30 R103, R107). -/
theorem select_firstWord (b a : Byte) : CommandRow.select (firstWord b a) =
    match Opcode.ofByte b with
    | none => none
    | some op => if op.hasImm = false ∧ a ≠ 0#8 then none else some op.row := by
  have key : ∀ op : Opcode, (firstWord b a &&& op.row.mask == op.row.pattern) = (b == op.byte && (op.hasImm || a == 0#8)) := by
    intro op
    cases h : op.hasImm <;> simp [Opcode.row, h, firstWord_masked, firstWord_whole]
  rw [CommandRow.select, commandRows_eq, List.find?_map]
  simp only [Function.comp_def, key]
  cases h : Opcode.ofByte b with
  | none =>
    have : ∀ op : Opcode, (b == op.byte) = false := by
      intro op
      simp only [beq_eq_false_iff_ne]
      rintro rfl
      simp at h
    simp [this]
  | some op =>
    have hb := Opcode.byte_ofByte h
    subst hb
    have inj : ∀ q : Opcode, (op.byte == q.byte) = decide (op = q) := by
      intro q; cases op <;> cases q <;> rfl
    simp only [inj]
    by_cases ha : a = 0#8
    · subst ha
      cases op <;> rfl
    · have hb : (a == 0#8) = false := by simpa using ha
      simp only [hb, ne_eq, ha, not_false_eq_true, and_true]
      cases op <;> simp only [Opcode.hasImm] <;> rfl

end Sys2Proof
end

