-- ==== Sys2Proof/Laws/FarEnd.lean ====
section
/-!
SUPPORT. Laws of the far-end model (20_memory R80 to R88): what each word leaves alone, and that its lists stay in
canonical form.
-/

namespace Sys2Proof.Machine

@[simp] theorem Panel.readReg_unknown (i : Byte) : Panel.unknown.readReg i = none := rfl

theorem Panel.readGram_of_gram_nil {p : Panel} (e : p.gram = []) (h v : Word) : p.readGram h v = none := by
  simp [Panel.readGram, e, Cells.get]

@[simp] theorem Panel.readGram_unknown (h v : Word) : Panel.unknown.readGram h v = none :=
  Panel.readGram_of_gram_nil rfl h v

theorem Panel.readGram_on_screen {h v : Word} (on : onScreen ⟨h, v⟩ = true) (p : Panel) :
    p.readGram h v = Cells.get (gramKey h v) p.gram := by
  simp [Panel.readGram, on]

theorem Panel.readGram_off_screen {h v : Word} (off : onScreen ⟨h, v⟩ = false) (p : Panel) : p.readGram h v = none := by
  simp [Panel.readGram, off]

@[simp] theorem Panel.latchIndex_ir (a : Byte) (p : Panel) : (p.latchIndex (indexWord a)).ir = some a := by
  have h : (indexWord a).extractLsb' 0 8 = a := immField_indexWord a
  simp [Panel.latchIndex, h]

theorem Panel.latchIndex_eq (a : Byte) (p : Panel) : p.latchIndex (indexWord a) = { p with ir := some a } := by
  have h : (indexWord a).extractLsb' 0 8 = a := immField_indexWord a
  simp [Panel.latchIndex, h]

@[simp] theorem Panel.advance_ir (c : Config) (cur : Cursor) (p : Panel) : (Panel.advance c cur p).ir = p.ir := by
  unfold Panel.advance
  split <;> rfl

@[simp] theorem Panel.advance_reg (c : Config) (cur : Cursor) (p : Panel) : (Panel.advance c cur p).reg = p.reg := by
  unfold Panel.advance
  split <;> rfl

@[simp] theorem Panel.advance_gram (c : Config) (cur : Cursor) (p : Panel) : (Panel.advance c cur p).gram = p.gram := by
  unfold Panel.advance
  split <;> rfl

@[simp] theorem Panel.pixelWord_ir (c : Config) (w : Word) (p : Panel) : (Panel.pixelWord c w p).ir = p.ir := by
  unfold Panel.pixelWord
  split
  · rfl
  · split <;> simp [Panel.losePixels]

@[simp] theorem Panel.pixelWord_reg (c : Config) (w : Word) (p : Panel) : (Panel.pixelWord c w p).reg = p.reg := by
  unfold Panel.pixelWord
  split
  · rfl
  · split <;> simp [Panel.losePixels]

/-- A data word to the GRAM register keeps the latched index (20_memory R82, R84). -/
theorem Panel.dataWord_ir_pixel {c : Config} {p : Panel} (h : p.ir = some c.idx.gramRw) (w : Word) :
    (Panel.dataWord c w p).ir = some c.idx.gramRw := by
  simp [Panel.dataWord, h]

theorem gramKey_lt {h v : Word} (hh : h.toNat < screenSizeX) (hv : v.toNat < screenSizeY) :
    gramKey h v < screenSizeX * screenSizeY := by
  simp only [gramKey, screenSizeX, screenSizeY] at *
  omega

theorem gramKey_inj {h v h' v' : Word} (hv : v.toNat < screenSizeY) (hv' : v'.toNat < screenSizeY)
    (e : gramKey h v = gramKey h' v') : h = h' ∧ v = v' := by
  simp only [gramKey, screenSizeY] at *
  constructor <;> apply BitVec.eq_of_toNat_eq <;> omega

theorem Panel.canonical_unknown : Panel.unknown.Canonical where
  reg_wf := by simp [Panel.unknown, Cells.wf]
  gram_wf := by simp [Panel.unknown, Cells.wf]
  reg_exists := by simp [Panel.unknown]
  gram_exists := by simp [Panel.unknown]

theorem Panel.canonical_of_lists {p q : Panel} (hp : p.Canonical) (hr : q.reg = p.reg) (hg : q.gram = p.gram) :
    q.Canonical where
  reg_wf := hr ▸ hp.reg_wf
  gram_wf := hg ▸ hp.gram_wf
  reg_exists := hr ▸ hp.reg_exists
  gram_exists := hg ▸ hp.gram_exists

theorem Panel.canonical_losePixels {p : Panel} (hp : p.Canonical) : p.losePixels.Canonical where
  reg_wf := hp.reg_wf
  gram_wf := by simp [Panel.losePixels, Cells.wf]
  reg_exists := hp.reg_exists
  gram_exists := by simp [Panel.losePixels]

theorem Panel.canonical_pixelWord {p : Panel} (hp : p.Canonical) (c : Config) (w : Word) :
    (Panel.pixelWord c w p).Canonical := by
  unfold Panel.pixelWord
  split
  · exact canonical_losePixels hp
  · rename_i cur _
    split
    · rename_i on
      simp only [onScreen, Bool.and_eq_true, decide_eq_true_eq] at on
      refine Panel.canonical_of_lists (p := { p with gram := Cells.put (gramKey cur.h cur.v) w p.gram }) ?_
        (Panel.advance_reg ..) (Panel.advance_gram ..)
      exact
        { reg_wf := hp.reg_wf
          gram_wf := Cells.wf_put hp.gram_wf _ _
          reg_exists := hp.reg_exists
          gram_exists := fun d hd => by
            rcases Cells.mem_put hd with rfl | hd
            · exact gramKey_lt on.1 on.2
            · exact hp.gram_exists d hd }
    · exact canonical_losePixels hp

theorem Panel.canonical_registerWord {p : Panel} (hp : p.Canonical) (c : Config) (i : Byte) (w : Word) :
    (Panel.registerWord c i w p).Canonical := by
  unfold Panel.registerWord
  split
  · exact canonical_unknown
  · exact
      { reg_wf := Cells.wf_put hp.reg_wf _ _
        gram_wf := hp.gram_wf
        reg_exists := fun d hd => by
          rcases Cells.mem_put hd with rfl | hd
          · exact i.isLt
          · exact hp.reg_exists d hd
        gram_exists := hp.gram_exists }

/-- Every word the far end consumes keeps its lists in canonical form. -/
theorem Panel.canonical_consume {p : Panel} (hp : p.Canonical) (c : Config) (r : Level) (w : Word) :
    (Panel.consume c r w p).Canonical := by
  cases r
  · exact canonical_of_lists hp rfl rfl
  · simp only [Panel.consume, Panel.dataWord]
    split
    · exact canonical_unknown
    · split
      · exact canonical_pixelWord hp c w
      · exact canonical_registerWord hp c _ w

theorem Panel.canonical_afterRead {p : Panel} (hp : p.Canonical) (c : Config) : (Panel.afterRead c p).Canonical := by
  unfold Panel.afterRead
  split
  · exact canonical_of_lists hp rfl rfl
  · split
    · exact canonical_of_lists hp rfl rfl
    · exact hp

/-- A register write reads back, unless it is the soft-reset write (20_memory R83, log 12). -/
theorem Panel.readReg_registerWord_self {i : Byte} {w : Word} (h : ¬(i = idxSoftReset ∧ w = softResetMagic))
    (c : Config) (p : Panel) : (Panel.registerWord c i w p).readReg i = some w := by
  simp only [Panel.registerWord, if_neg h, Panel.readReg, Cells.get_put_self]

theorem Panel.readReg_registerWord_ne {i j : Byte} {w : Word} (h : ¬(i = idxSoftReset ∧ w = softResetMagic))
    (hj : j ≠ i) (c : Config) (p : Panel) : (Panel.registerWord c i w p).readReg j = p.readReg j := by
  have hn : j.toNat ≠ i.toNat := fun e => hj (BitVec.eq_of_toNat_eq e)
  simp only [Panel.registerWord, if_neg h, Panel.readReg, Cells.get_put_ne hn]

end Sys2Proof.Machine
end

