-- ==== Sys2Proof/Laws/State.lean ====
section
/-!
SUPPORT. One lemma per field of State and primitive update, true by rfl, so that no later proof unfolds a record update.
-/

namespace Sys2Proof.Machine

section
variable (e : Event) (s : State)

@[simp] theorem emit_cfg : (emit e s).cfg = s.cfg := rfl
@[simp] theorem emit_prog : (emit e s).prog = s.prog := rfl
@[simp] theorem emit_mem : (emit e s).mem = s.mem := rfl
@[simp] theorem emit_turns : (emit e s).turns = s.turns := rfl
@[simp] theorem emit_cycle : (emit e s).cycle = s.cycle := rfl
@[simp] theorem emit_cpc : (emit e s).cpc = s.cpc := rfl
@[simp] theorem emit_cbProg : (emit e s).cbProg = s.cbProg := rfl
@[simp] theorem emit_wait : (emit e s).wait = s.wait := rfl
@[simp] theorem emit_cbWait : (emit e s).cbWait = s.cbWait := rfl
@[simp] theorem emit_cs : (emit e s).cs = s.cs := rfl
@[simp] theorem emit_rs : (emit e s).rs = s.rs := rfl
@[simp] theorem emit_rst : (emit e s).rst = s.rst := rfl
@[simp] theorem emit_bl : (emit e s).bl = s.bl := rfl
@[simp] theorem emit_led : (emit e s).led = s.led := rfl
@[simp] theorem emit_dstate : (emit e s).dstate = s.dstate := rfl
@[simp] theorem emit_frameOpen : (emit e s).frameOpen = s.frameOpen := rfl
@[simp] theorem emit_tdCfg : (emit e s).tdCfg = s.tdCfg := rfl
@[simp] theorem emit_tdWidth : (emit e s).tdWidth = s.tdWidth := rfl
@[simp] theorem emit_tdDst : (emit e s).tdDst = s.tdDst := rfl
@[simp] theorem emit_tdDreq : (emit e s).tdDreq = s.tdDreq := rfl
@[simp] theorem emit_tdSrc : (emit e s).tdSrc = s.tdSrc := rfl
@[simp] theorem emit_tdCount : (emit e s).tdCount = s.tdCount := rfl
@[simp] theorem emit_tdRem : (emit e s).tdRem = s.tdRem := rfl
@[simp] theorem emit_cbValid : (emit e s).cbValid = s.cbValid := rfl
@[simp] theorem emit_cbFn : (emit e s).cbFn = s.cbFn := rfl
@[simp] theorem emit_cbLine : (emit e s).cbLine = s.cbLine := rfl
@[simp] theorem emit_irqPending : (emit e s).irqPending = s.irqPending := rfl
@[simp] theorem emit_fifo : (emit e s).fifo = s.fifo := rfl
@[simp] theorem emit_err : (emit e s).err = s.err := rfl
@[simp] theorem emit_errCode : (emit e s).errCode = s.errCode := rfl
@[simp] theorem emit_result : (emit e s).result = s.result := rfl
@[simp] theorem emit_panel : (emit e s).panel = s.panel := rfl
@[simp] theorem emit_traceRev : (emit e s).traceRev = e :: s.traceRev := rfl
@[simp] theorem emit_draws : (emit e s).draws = s.draws := rfl

end

section
variable (l : Level) (s : State)

@[simp] theorem driveCs_cfg : (driveCs l s).cfg = s.cfg := rfl
@[simp] theorem driveCs_prog : (driveCs l s).prog = s.prog := rfl
@[simp] theorem driveCs_mem : (driveCs l s).mem = s.mem := rfl
@[simp] theorem driveCs_turns : (driveCs l s).turns = s.turns := rfl
@[simp] theorem driveCs_cycle : (driveCs l s).cycle = s.cycle := rfl
@[simp] theorem driveCs_cpc : (driveCs l s).cpc = s.cpc := rfl
@[simp] theorem driveCs_cbProg : (driveCs l s).cbProg = s.cbProg := rfl
@[simp] theorem driveCs_wait : (driveCs l s).wait = s.wait := rfl
@[simp] theorem driveCs_cbWait : (driveCs l s).cbWait = s.cbWait := rfl
@[simp] theorem driveCs_cs : (driveCs l s).cs = l := rfl
@[simp] theorem driveCs_rs : (driveCs l s).rs = s.rs := rfl
@[simp] theorem driveCs_rst : (driveCs l s).rst = s.rst := rfl
@[simp] theorem driveCs_bl : (driveCs l s).bl = s.bl := rfl
@[simp] theorem driveCs_led : (driveCs l s).led = s.led := rfl
@[simp] theorem driveCs_dstate : (driveCs l s).dstate = s.dstate := rfl
@[simp] theorem driveCs_frameOpen : (driveCs l s).frameOpen = s.frameOpen := rfl
@[simp] theorem driveCs_tdCfg : (driveCs l s).tdCfg = s.tdCfg := rfl
@[simp] theorem driveCs_tdWidth : (driveCs l s).tdWidth = s.tdWidth := rfl
@[simp] theorem driveCs_tdDst : (driveCs l s).tdDst = s.tdDst := rfl
@[simp] theorem driveCs_tdDreq : (driveCs l s).tdDreq = s.tdDreq := rfl
@[simp] theorem driveCs_tdSrc : (driveCs l s).tdSrc = s.tdSrc := rfl
@[simp] theorem driveCs_tdCount : (driveCs l s).tdCount = s.tdCount := rfl
@[simp] theorem driveCs_tdRem : (driveCs l s).tdRem = s.tdRem := rfl
@[simp] theorem driveCs_cbValid : (driveCs l s).cbValid = s.cbValid := rfl
@[simp] theorem driveCs_cbFn : (driveCs l s).cbFn = s.cbFn := rfl
@[simp] theorem driveCs_cbLine : (driveCs l s).cbLine = s.cbLine := rfl
@[simp] theorem driveCs_irqPending : (driveCs l s).irqPending = s.irqPending := rfl
@[simp] theorem driveCs_fifo : (driveCs l s).fifo = s.fifo := rfl
@[simp] theorem driveCs_err : (driveCs l s).err = s.err := rfl
@[simp] theorem driveCs_errCode : (driveCs l s).errCode = s.errCode := rfl
@[simp] theorem driveCs_result : (driveCs l s).result = s.result := rfl
@[simp] theorem driveCs_panel : (driveCs l s).panel = s.panel := rfl
@[simp] theorem driveCs_traceRev : (driveCs l s).traceRev = .pin .cs l :: s.traceRev := rfl
@[simp] theorem driveCs_draws : (driveCs l s).draws = s.draws := rfl

end

section
variable (l : Level) (s : State)

@[simp] theorem driveRs_cfg : (driveRs l s).cfg = s.cfg := rfl
@[simp] theorem driveRs_prog : (driveRs l s).prog = s.prog := rfl
@[simp] theorem driveRs_mem : (driveRs l s).mem = s.mem := rfl
@[simp] theorem driveRs_turns : (driveRs l s).turns = s.turns := rfl
@[simp] theorem driveRs_cycle : (driveRs l s).cycle = s.cycle := rfl
@[simp] theorem driveRs_cpc : (driveRs l s).cpc = s.cpc := rfl
@[simp] theorem driveRs_cbProg : (driveRs l s).cbProg = s.cbProg := rfl
@[simp] theorem driveRs_wait : (driveRs l s).wait = s.wait := rfl
@[simp] theorem driveRs_cbWait : (driveRs l s).cbWait = s.cbWait := rfl
@[simp] theorem driveRs_cs : (driveRs l s).cs = s.cs := rfl
@[simp] theorem driveRs_rs : (driveRs l s).rs = l := rfl
@[simp] theorem driveRs_rst : (driveRs l s).rst = s.rst := rfl
@[simp] theorem driveRs_bl : (driveRs l s).bl = s.bl := rfl
@[simp] theorem driveRs_led : (driveRs l s).led = s.led := rfl
@[simp] theorem driveRs_dstate : (driveRs l s).dstate = s.dstate := rfl
@[simp] theorem driveRs_frameOpen : (driveRs l s).frameOpen = s.frameOpen := rfl
@[simp] theorem driveRs_tdCfg : (driveRs l s).tdCfg = s.tdCfg := rfl
@[simp] theorem driveRs_tdWidth : (driveRs l s).tdWidth = s.tdWidth := rfl
@[simp] theorem driveRs_tdDst : (driveRs l s).tdDst = s.tdDst := rfl
@[simp] theorem driveRs_tdDreq : (driveRs l s).tdDreq = s.tdDreq := rfl
@[simp] theorem driveRs_tdSrc : (driveRs l s).tdSrc = s.tdSrc := rfl
@[simp] theorem driveRs_tdCount : (driveRs l s).tdCount = s.tdCount := rfl
@[simp] theorem driveRs_tdRem : (driveRs l s).tdRem = s.tdRem := rfl
@[simp] theorem driveRs_cbValid : (driveRs l s).cbValid = s.cbValid := rfl
@[simp] theorem driveRs_cbFn : (driveRs l s).cbFn = s.cbFn := rfl
@[simp] theorem driveRs_cbLine : (driveRs l s).cbLine = s.cbLine := rfl
@[simp] theorem driveRs_irqPending : (driveRs l s).irqPending = s.irqPending := rfl
@[simp] theorem driveRs_fifo : (driveRs l s).fifo = s.fifo := rfl
@[simp] theorem driveRs_err : (driveRs l s).err = s.err := rfl
@[simp] theorem driveRs_errCode : (driveRs l s).errCode = s.errCode := rfl
@[simp] theorem driveRs_result : (driveRs l s).result = s.result := rfl
@[simp] theorem driveRs_panel : (driveRs l s).panel = s.panel := rfl
@[simp] theorem driveRs_traceRev : (driveRs l s).traceRev = .pin .rs l :: s.traceRev := rfl
@[simp] theorem driveRs_draws : (driveRs l s).draws = s.draws := rfl

end

section
variable (l : Lamp) (s : State)

@[simp] theorem driveBl_cfg : (driveBl l s).cfg = s.cfg := rfl
@[simp] theorem driveBl_prog : (driveBl l s).prog = s.prog := rfl
@[simp] theorem driveBl_mem : (driveBl l s).mem = s.mem := rfl
@[simp] theorem driveBl_turns : (driveBl l s).turns = s.turns := rfl
@[simp] theorem driveBl_cycle : (driveBl l s).cycle = s.cycle := rfl
@[simp] theorem driveBl_cpc : (driveBl l s).cpc = s.cpc := rfl
@[simp] theorem driveBl_cbProg : (driveBl l s).cbProg = s.cbProg := rfl
@[simp] theorem driveBl_wait : (driveBl l s).wait = s.wait := rfl
@[simp] theorem driveBl_cbWait : (driveBl l s).cbWait = s.cbWait := rfl
@[simp] theorem driveBl_cs : (driveBl l s).cs = s.cs := rfl
@[simp] theorem driveBl_rs : (driveBl l s).rs = s.rs := rfl
@[simp] theorem driveBl_rst : (driveBl l s).rst = s.rst := rfl
@[simp] theorem driveBl_bl : (driveBl l s).bl = l := rfl
@[simp] theorem driveBl_led : (driveBl l s).led = s.led := rfl
@[simp] theorem driveBl_dstate : (driveBl l s).dstate = s.dstate := rfl
@[simp] theorem driveBl_frameOpen : (driveBl l s).frameOpen = s.frameOpen := rfl
@[simp] theorem driveBl_tdCfg : (driveBl l s).tdCfg = s.tdCfg := rfl
@[simp] theorem driveBl_tdWidth : (driveBl l s).tdWidth = s.tdWidth := rfl
@[simp] theorem driveBl_tdDst : (driveBl l s).tdDst = s.tdDst := rfl
@[simp] theorem driveBl_tdDreq : (driveBl l s).tdDreq = s.tdDreq := rfl
@[simp] theorem driveBl_tdSrc : (driveBl l s).tdSrc = s.tdSrc := rfl
@[simp] theorem driveBl_tdCount : (driveBl l s).tdCount = s.tdCount := rfl
@[simp] theorem driveBl_tdRem : (driveBl l s).tdRem = s.tdRem := rfl
@[simp] theorem driveBl_cbValid : (driveBl l s).cbValid = s.cbValid := rfl
@[simp] theorem driveBl_cbFn : (driveBl l s).cbFn = s.cbFn := rfl
@[simp] theorem driveBl_cbLine : (driveBl l s).cbLine = s.cbLine := rfl
@[simp] theorem driveBl_irqPending : (driveBl l s).irqPending = s.irqPending := rfl
@[simp] theorem driveBl_fifo : (driveBl l s).fifo = s.fifo := rfl
@[simp] theorem driveBl_err : (driveBl l s).err = s.err := rfl
@[simp] theorem driveBl_errCode : (driveBl l s).errCode = s.errCode := rfl
@[simp] theorem driveBl_result : (driveBl l s).result = s.result := rfl
@[simp] theorem driveBl_panel : (driveBl l s).panel = s.panel := rfl
@[simp] theorem driveBl_traceRev : (driveBl l s).traceRev = .lamp .bl l :: s.traceRev := rfl
@[simp] theorem driveBl_draws : (driveBl l s).draws = s.draws := rfl

end

section
variable (ms : Nat) (s : State)

@[simp] theorem delay_cfg : (delay ms s).cfg = s.cfg := rfl
@[simp] theorem delay_prog : (delay ms s).prog = s.prog := rfl
@[simp] theorem delay_mem : (delay ms s).mem = s.mem := rfl
@[simp] theorem delay_turns : (delay ms s).turns = s.turns := rfl
@[simp] theorem delay_cycle : (delay ms s).cycle = s.cycle := rfl
@[simp] theorem delay_cpc : (delay ms s).cpc = s.cpc := rfl
@[simp] theorem delay_cbProg : (delay ms s).cbProg = s.cbProg := rfl
@[simp] theorem delay_wait : (delay ms s).wait = s.wait := rfl
@[simp] theorem delay_cbWait : (delay ms s).cbWait = s.cbWait := rfl
@[simp] theorem delay_cs : (delay ms s).cs = s.cs := rfl
@[simp] theorem delay_rs : (delay ms s).rs = s.rs := rfl
@[simp] theorem delay_rst : (delay ms s).rst = s.rst := rfl
@[simp] theorem delay_bl : (delay ms s).bl = s.bl := rfl
@[simp] theorem delay_led : (delay ms s).led = s.led := rfl
@[simp] theorem delay_dstate : (delay ms s).dstate = s.dstate := rfl
@[simp] theorem delay_frameOpen : (delay ms s).frameOpen = s.frameOpen := rfl
@[simp] theorem delay_tdCfg : (delay ms s).tdCfg = s.tdCfg := rfl
@[simp] theorem delay_tdWidth : (delay ms s).tdWidth = s.tdWidth := rfl
@[simp] theorem delay_tdDst : (delay ms s).tdDst = s.tdDst := rfl
@[simp] theorem delay_tdDreq : (delay ms s).tdDreq = s.tdDreq := rfl
@[simp] theorem delay_tdSrc : (delay ms s).tdSrc = s.tdSrc := rfl
@[simp] theorem delay_tdCount : (delay ms s).tdCount = s.tdCount := rfl
@[simp] theorem delay_tdRem : (delay ms s).tdRem = s.tdRem := rfl
@[simp] theorem delay_cbValid : (delay ms s).cbValid = s.cbValid := rfl
@[simp] theorem delay_cbFn : (delay ms s).cbFn = s.cbFn := rfl
@[simp] theorem delay_cbLine : (delay ms s).cbLine = s.cbLine := rfl
@[simp] theorem delay_irqPending : (delay ms s).irqPending = s.irqPending := rfl
@[simp] theorem delay_fifo : (delay ms s).fifo = s.fifo := rfl
@[simp] theorem delay_err : (delay ms s).err = s.err := rfl
@[simp] theorem delay_errCode : (delay ms s).errCode = s.errCode := rfl
@[simp] theorem delay_result : (delay ms s).result = s.result := rfl
@[simp] theorem delay_panel : (delay ms s).panel = s.panel := rfl
@[simp] theorem delay_traceRev : (delay ms s).traceRev = .delay ms :: s.traceRev := rfl
@[simp] theorem delay_draws : (delay ms s).draws = s.draws := rfl

end

section
variable (v : Word) (s : State)

@[simp] theorem shiftOut_cfg : (shiftOut v s).cfg = s.cfg := rfl
@[simp] theorem shiftOut_prog : (shiftOut v s).prog = s.prog := rfl
@[simp] theorem shiftOut_mem : (shiftOut v s).mem = s.mem := rfl
@[simp] theorem shiftOut_turns : (shiftOut v s).turns = s.turns := rfl
@[simp] theorem shiftOut_cycle : (shiftOut v s).cycle = s.cycle := rfl
@[simp] theorem shiftOut_cpc : (shiftOut v s).cpc = s.cpc := rfl
@[simp] theorem shiftOut_cbProg : (shiftOut v s).cbProg = s.cbProg := rfl
@[simp] theorem shiftOut_wait : (shiftOut v s).wait = s.wait := rfl
@[simp] theorem shiftOut_cbWait : (shiftOut v s).cbWait = s.cbWait := rfl
@[simp] theorem shiftOut_cs : (shiftOut v s).cs = s.cs := rfl
@[simp] theorem shiftOut_rs : (shiftOut v s).rs = s.rs := rfl
@[simp] theorem shiftOut_rst : (shiftOut v s).rst = s.rst := rfl
@[simp] theorem shiftOut_bl : (shiftOut v s).bl = s.bl := rfl
@[simp] theorem shiftOut_led : (shiftOut v s).led = s.led := rfl
@[simp] theorem shiftOut_dstate : (shiftOut v s).dstate = s.dstate := rfl
@[simp] theorem shiftOut_frameOpen : (shiftOut v s).frameOpen = s.frameOpen := rfl
@[simp] theorem shiftOut_tdCfg : (shiftOut v s).tdCfg = s.tdCfg := rfl
@[simp] theorem shiftOut_tdWidth : (shiftOut v s).tdWidth = s.tdWidth := rfl
@[simp] theorem shiftOut_tdDst : (shiftOut v s).tdDst = s.tdDst := rfl
@[simp] theorem shiftOut_tdDreq : (shiftOut v s).tdDreq = s.tdDreq := rfl
@[simp] theorem shiftOut_tdSrc : (shiftOut v s).tdSrc = s.tdSrc := rfl
@[simp] theorem shiftOut_tdCount : (shiftOut v s).tdCount = s.tdCount := rfl
@[simp] theorem shiftOut_tdRem : (shiftOut v s).tdRem = s.tdRem := rfl
@[simp] theorem shiftOut_cbValid : (shiftOut v s).cbValid = s.cbValid := rfl
@[simp] theorem shiftOut_cbFn : (shiftOut v s).cbFn = s.cbFn := rfl
@[simp] theorem shiftOut_cbLine : (shiftOut v s).cbLine = s.cbLine := rfl
@[simp] theorem shiftOut_irqPending : (shiftOut v s).irqPending = s.irqPending := rfl
@[simp] theorem shiftOut_fifo : (shiftOut v s).fifo = s.fifo := rfl
@[simp] theorem shiftOut_err : (shiftOut v s).err = s.err := rfl
@[simp] theorem shiftOut_errCode : (shiftOut v s).errCode = s.errCode := rfl
@[simp] theorem shiftOut_result : (shiftOut v s).result = s.result := rfl
@[simp] theorem shiftOut_panel : (shiftOut v s).panel = Panel.consume s.cfg s.rs v s.panel := rfl
@[simp] theorem shiftOut_traceRev : (shiftOut v s).traceRev = .tx s.rs v :: s.traceRev := rfl
@[simp] theorem shiftOut_draws : (shiftOut v s).draws = s.draws := rfl

end

section
variable (v : Word) (s : State)

@[simp] theorem receiveWord_cfg : (receiveWord v s).cfg = s.cfg := rfl
@[simp] theorem receiveWord_prog : (receiveWord v s).prog = s.prog := rfl
@[simp] theorem receiveWord_mem : (receiveWord v s).mem = s.mem := rfl
@[simp] theorem receiveWord_turns : (receiveWord v s).turns = s.turns := rfl
@[simp] theorem receiveWord_cycle : (receiveWord v s).cycle = s.cycle := rfl
@[simp] theorem receiveWord_cpc : (receiveWord v s).cpc = s.cpc := rfl
@[simp] theorem receiveWord_cbProg : (receiveWord v s).cbProg = s.cbProg := rfl
@[simp] theorem receiveWord_wait : (receiveWord v s).wait = s.wait := rfl
@[simp] theorem receiveWord_cbWait : (receiveWord v s).cbWait = s.cbWait := rfl
@[simp] theorem receiveWord_cs : (receiveWord v s).cs = s.cs := rfl
@[simp] theorem receiveWord_rs : (receiveWord v s).rs = s.rs := rfl
@[simp] theorem receiveWord_rst : (receiveWord v s).rst = s.rst := rfl
@[simp] theorem receiveWord_bl : (receiveWord v s).bl = s.bl := rfl
@[simp] theorem receiveWord_led : (receiveWord v s).led = s.led := rfl
@[simp] theorem receiveWord_dstate : (receiveWord v s).dstate = s.dstate := rfl
@[simp] theorem receiveWord_frameOpen : (receiveWord v s).frameOpen = s.frameOpen := rfl
@[simp] theorem receiveWord_tdCfg : (receiveWord v s).tdCfg = s.tdCfg := rfl
@[simp] theorem receiveWord_tdWidth : (receiveWord v s).tdWidth = s.tdWidth := rfl
@[simp] theorem receiveWord_tdDst : (receiveWord v s).tdDst = s.tdDst := rfl
@[simp] theorem receiveWord_tdDreq : (receiveWord v s).tdDreq = s.tdDreq := rfl
@[simp] theorem receiveWord_tdSrc : (receiveWord v s).tdSrc = s.tdSrc := rfl
@[simp] theorem receiveWord_tdCount : (receiveWord v s).tdCount = s.tdCount := rfl
@[simp] theorem receiveWord_tdRem : (receiveWord v s).tdRem = s.tdRem := rfl
@[simp] theorem receiveWord_cbValid : (receiveWord v s).cbValid = s.cbValid := rfl
@[simp] theorem receiveWord_cbFn : (receiveWord v s).cbFn = s.cbFn := rfl
@[simp] theorem receiveWord_cbLine : (receiveWord v s).cbLine = s.cbLine := rfl
@[simp] theorem receiveWord_irqPending : (receiveWord v s).irqPending = s.irqPending := rfl
@[simp] theorem receiveWord_fifo : (receiveWord v s).fifo = s.fifo := rfl
@[simp] theorem receiveWord_err : (receiveWord v s).err = s.err := rfl
@[simp] theorem receiveWord_errCode : (receiveWord v s).errCode = s.errCode := rfl
@[simp] theorem receiveWord_result : (receiveWord v s).result = s.result := rfl
@[simp] theorem receiveWord_panel : (receiveWord v s).panel = Panel.afterRead s.cfg s.panel := rfl
@[simp] theorem receiveWord_traceRev : (receiveWord v s).traceRev = .rx s.rs v :: s.traceRev := rfl
@[simp] theorem receiveWord_draws : (receiveWord v s).draws = s.draws := rfl

end

section
variable (s : State)

@[simp] theorem rx_cfg : (rx s).cfg = s.cfg := rfl
@[simp] theorem rx_prog : (rx s).prog = s.prog := rfl
@[simp] theorem rx_mem : (rx s).mem = s.mem := rfl
@[simp] theorem rx_turns : (rx s).turns = s.turns := rfl
@[simp] theorem rx_cycle : (rx s).cycle = s.cycle := rfl
@[simp] theorem rx_cpc : (rx s).cpc = s.cpc := rfl
@[simp] theorem rx_cbProg : (rx s).cbProg = s.cbProg := rfl
@[simp] theorem rx_wait : (rx s).wait = s.wait := rfl
@[simp] theorem rx_cbWait : (rx s).cbWait = s.cbWait := rfl
@[simp] theorem rx_cs : (rx s).cs = s.cs := rfl
@[simp] theorem rx_rs : (rx s).rs = s.rs := rfl
@[simp] theorem rx_rst : (rx s).rst = s.rst := rfl
@[simp] theorem rx_bl : (rx s).bl = s.bl := rfl
@[simp] theorem rx_led : (rx s).led = s.led := rfl
@[simp] theorem rx_dstate : (rx s).dstate = s.dstate := rfl
@[simp] theorem rx_frameOpen : (rx s).frameOpen = s.frameOpen := rfl
@[simp] theorem rx_tdCfg : (rx s).tdCfg = s.tdCfg := rfl
@[simp] theorem rx_tdWidth : (rx s).tdWidth = s.tdWidth := rfl
@[simp] theorem rx_tdDst : (rx s).tdDst = s.tdDst := rfl
@[simp] theorem rx_tdDreq : (rx s).tdDreq = s.tdDreq := rfl
@[simp] theorem rx_tdSrc : (rx s).tdSrc = s.tdSrc := rfl
@[simp] theorem rx_tdCount : (rx s).tdCount = s.tdCount := rfl
@[simp] theorem rx_tdRem : (rx s).tdRem = s.tdRem := rfl
@[simp] theorem rx_cbValid : (rx s).cbValid = s.cbValid := rfl
@[simp] theorem rx_cbFn : (rx s).cbFn = s.cbFn := rfl
@[simp] theorem rx_cbLine : (rx s).cbLine = s.cbLine := rfl
@[simp] theorem rx_irqPending : (rx s).irqPending = s.irqPending := rfl
@[simp] theorem rx_fifo : (rx s).fifo = s.fifo := rfl
@[simp] theorem rx_err : (rx s).err = s.err := rfl
@[simp] theorem rx_errCode : (rx s).errCode = s.errCode := rfl
@[simp] theorem rx_result : (rx s).result = s.result := rfl
@[simp] theorem rx_panel : (rx s).panel = Panel.afterRead s.cfg s.panel := rfl
@[simp] theorem rx_traceRev : (rx s).traceRev = .rx s.rs (rxWord s) :: s.traceRev := rfl
@[simp] theorem rx_draws : (rx s).draws = s.draws + 1 := rfl

end

section
variable (a : Nat) (s : State)

@[simp] theorem memRead_cfg : (memRead a s).cfg = s.cfg := rfl
@[simp] theorem memRead_prog : (memRead a s).prog = s.prog := rfl
@[simp] theorem memRead_mem : (memRead a s).mem = s.mem := rfl
@[simp] theorem memRead_turns : (memRead a s).turns = s.turns := rfl
@[simp] theorem memRead_cycle : (memRead a s).cycle = s.cycle := rfl
@[simp] theorem memRead_cpc : (memRead a s).cpc = s.cpc := rfl
@[simp] theorem memRead_cbProg : (memRead a s).cbProg = s.cbProg := rfl
@[simp] theorem memRead_wait : (memRead a s).wait = s.wait := rfl
@[simp] theorem memRead_cbWait : (memRead a s).cbWait = s.cbWait := rfl
@[simp] theorem memRead_cs : (memRead a s).cs = s.cs := rfl
@[simp] theorem memRead_rs : (memRead a s).rs = s.rs := rfl
@[simp] theorem memRead_rst : (memRead a s).rst = s.rst := rfl
@[simp] theorem memRead_bl : (memRead a s).bl = s.bl := rfl
@[simp] theorem memRead_led : (memRead a s).led = s.led := rfl
@[simp] theorem memRead_dstate : (memRead a s).dstate = s.dstate := rfl
@[simp] theorem memRead_frameOpen : (memRead a s).frameOpen = s.frameOpen := rfl
@[simp] theorem memRead_tdCfg : (memRead a s).tdCfg = s.tdCfg := rfl
@[simp] theorem memRead_tdWidth : (memRead a s).tdWidth = s.tdWidth := rfl
@[simp] theorem memRead_tdDst : (memRead a s).tdDst = s.tdDst := rfl
@[simp] theorem memRead_tdDreq : (memRead a s).tdDreq = s.tdDreq := rfl
@[simp] theorem memRead_tdSrc : (memRead a s).tdSrc = s.tdSrc := rfl
@[simp] theorem memRead_tdCount : (memRead a s).tdCount = s.tdCount := rfl
@[simp] theorem memRead_tdRem : (memRead a s).tdRem = s.tdRem := rfl
@[simp] theorem memRead_cbValid : (memRead a s).cbValid = s.cbValid := rfl
@[simp] theorem memRead_cbFn : (memRead a s).cbFn = s.cbFn := rfl
@[simp] theorem memRead_cbLine : (memRead a s).cbLine = s.cbLine := rfl
@[simp] theorem memRead_irqPending : (memRead a s).irqPending = s.irqPending := rfl
@[simp] theorem memRead_fifo : (memRead a s).fifo = s.fifo := rfl
@[simp] theorem memRead_err : (memRead a s).err = s.err := rfl
@[simp] theorem memRead_errCode : (memRead a s).errCode = s.errCode := rfl
@[simp] theorem memRead_result : (memRead a s).result = s.result := rfl
@[simp] theorem memRead_panel : (memRead a s).panel = s.panel := rfl
@[simp] theorem memRead_traceRev : (memRead a s).traceRev = .memRead a (memReadWord a s) :: s.traceRev := rfl
@[simp] theorem memRead_draws : (memRead a s).draws = s.draws := rfl

end

section
variable (v : Violation) (s : State)

@[simp] theorem raise_cfg : (raise v s).cfg = s.cfg := rfl
@[simp] theorem raise_prog : (raise v s).prog = s.prog := rfl
@[simp] theorem raise_mem : (raise v s).mem = s.mem := rfl
@[simp] theorem raise_turns : (raise v s).turns = s.turns := rfl
@[simp] theorem raise_cycle : (raise v s).cycle = s.cycle := rfl
@[simp] theorem raise_cpc : (raise v s).cpc = s.cpc := rfl
@[simp] theorem raise_cbProg : (raise v s).cbProg = s.cbProg := rfl
@[simp] theorem raise_wait : (raise v s).wait = s.wait := rfl
@[simp] theorem raise_cbWait : (raise v s).cbWait = s.cbWait := rfl
@[simp] theorem raise_cs : (raise v s).cs = s.cs := rfl
@[simp] theorem raise_rs : (raise v s).rs = s.rs := rfl
@[simp] theorem raise_rst : (raise v s).rst = s.rst := rfl
@[simp] theorem raise_bl : (raise v s).bl = s.bl := rfl
@[simp] theorem raise_led : (raise v s).led = s.led := rfl
@[simp] theorem raise_dstate : (raise v s).dstate = s.dstate := rfl
@[simp] theorem raise_frameOpen : (raise v s).frameOpen = s.frameOpen := rfl
@[simp] theorem raise_tdCfg : (raise v s).tdCfg = s.tdCfg := rfl
@[simp] theorem raise_tdWidth : (raise v s).tdWidth = s.tdWidth := rfl
@[simp] theorem raise_tdDst : (raise v s).tdDst = s.tdDst := rfl
@[simp] theorem raise_tdDreq : (raise v s).tdDreq = s.tdDreq := rfl
@[simp] theorem raise_tdSrc : (raise v s).tdSrc = s.tdSrc := rfl
@[simp] theorem raise_tdCount : (raise v s).tdCount = s.tdCount := rfl
@[simp] theorem raise_tdRem : (raise v s).tdRem = s.tdRem := rfl
@[simp] theorem raise_cbValid : (raise v s).cbValid = s.cbValid := rfl
@[simp] theorem raise_cbFn : (raise v s).cbFn = s.cbFn := rfl
@[simp] theorem raise_cbLine : (raise v s).cbLine = s.cbLine := rfl
@[simp] theorem raise_irqPending : (raise v s).irqPending = s.irqPending := rfl
@[simp] theorem raise_fifo : (raise v s).fifo = s.fifo := rfl
@[simp] theorem raise_err : (raise v s).err = true := rfl
@[simp] theorem raise_errCode : (raise v s).errCode = if s.err then s.errCode else v.code := rfl
@[simp] theorem raise_result : (raise v s).result = s.result := rfl
@[simp] theorem raise_panel : (raise v s).panel = s.panel := rfl
@[simp] theorem raise_traceRev : (raise v s).traceRev = .violation v :: s.traceRev := rfl
@[simp] theorem raise_draws : (raise v s).draws = s.draws := rfl

end

section
variable (len : Nat) (s : State)

@[simp] theorem advanceCpc_cfg : (advanceCpc len s).cfg = s.cfg := rfl
@[simp] theorem advanceCpc_prog : (advanceCpc len s).prog = s.prog := rfl
@[simp] theorem advanceCpc_mem : (advanceCpc len s).mem = s.mem := rfl
@[simp] theorem advanceCpc_turns : (advanceCpc len s).turns = s.turns := rfl
@[simp] theorem advanceCpc_cycle : (advanceCpc len s).cycle = s.cycle := rfl
@[simp] theorem advanceCpc_cpc : (advanceCpc len s).cpc = s.cpc + len := rfl
@[simp] theorem advanceCpc_cbProg : (advanceCpc len s).cbProg = s.cbProg := rfl
@[simp] theorem advanceCpc_wait : (advanceCpc len s).wait = s.wait := rfl
@[simp] theorem advanceCpc_cbWait : (advanceCpc len s).cbWait = s.cbWait := rfl
@[simp] theorem advanceCpc_cs : (advanceCpc len s).cs = s.cs := rfl
@[simp] theorem advanceCpc_rs : (advanceCpc len s).rs = s.rs := rfl
@[simp] theorem advanceCpc_rst : (advanceCpc len s).rst = s.rst := rfl
@[simp] theorem advanceCpc_bl : (advanceCpc len s).bl = s.bl := rfl
@[simp] theorem advanceCpc_led : (advanceCpc len s).led = s.led := rfl
@[simp] theorem advanceCpc_dstate : (advanceCpc len s).dstate = s.dstate := rfl
@[simp] theorem advanceCpc_frameOpen : (advanceCpc len s).frameOpen = s.frameOpen := rfl
@[simp] theorem advanceCpc_tdCfg : (advanceCpc len s).tdCfg = s.tdCfg := rfl
@[simp] theorem advanceCpc_tdWidth : (advanceCpc len s).tdWidth = s.tdWidth := rfl
@[simp] theorem advanceCpc_tdDst : (advanceCpc len s).tdDst = s.tdDst := rfl
@[simp] theorem advanceCpc_tdDreq : (advanceCpc len s).tdDreq = s.tdDreq := rfl
@[simp] theorem advanceCpc_tdSrc : (advanceCpc len s).tdSrc = s.tdSrc := rfl
@[simp] theorem advanceCpc_tdCount : (advanceCpc len s).tdCount = s.tdCount := rfl
@[simp] theorem advanceCpc_tdRem : (advanceCpc len s).tdRem = s.tdRem := rfl
@[simp] theorem advanceCpc_cbValid : (advanceCpc len s).cbValid = s.cbValid := rfl
@[simp] theorem advanceCpc_cbFn : (advanceCpc len s).cbFn = s.cbFn := rfl
@[simp] theorem advanceCpc_cbLine : (advanceCpc len s).cbLine = s.cbLine := rfl
@[simp] theorem advanceCpc_irqPending : (advanceCpc len s).irqPending = s.irqPending := rfl
@[simp] theorem advanceCpc_fifo : (advanceCpc len s).fifo = s.fifo := rfl
@[simp] theorem advanceCpc_err : (advanceCpc len s).err = s.err := rfl
@[simp] theorem advanceCpc_errCode : (advanceCpc len s).errCode = s.errCode := rfl
@[simp] theorem advanceCpc_result : (advanceCpc len s).result = s.result := rfl
@[simp] theorem advanceCpc_panel : (advanceCpc len s).panel = s.panel := rfl
@[simp] theorem advanceCpc_traceRev : (advanceCpc len s).traceRev = s.traceRev := rfl
@[simp] theorem advanceCpc_draws : (advanceCpc len s).draws = s.draws := rfl

end

section
variable (words : List Word) (s : State)

@[simp] theorem extendCallback_cfg : (extendCallback words s).cfg = s.cfg := rfl
@[simp] theorem extendCallback_prog : (extendCallback words s).prog = s.prog := rfl
@[simp] theorem extendCallback_mem : (extendCallback words s).mem = s.mem := rfl
@[simp] theorem extendCallback_turns : (extendCallback words s).turns = s.turns := rfl
@[simp] theorem extendCallback_cycle : (extendCallback words s).cycle = s.cycle := rfl
@[simp] theorem extendCallback_cpc : (extendCallback words s).cpc = s.cpc := rfl
@[simp] theorem extendCallback_cbProg : (extendCallback words s).cbProg = s.cbProg ++ words := rfl
@[simp] theorem extendCallback_wait : (extendCallback words s).wait = s.wait := rfl
@[simp] theorem extendCallback_cbWait : (extendCallback words s).cbWait = s.cbWait := rfl
@[simp] theorem extendCallback_cs : (extendCallback words s).cs = s.cs := rfl
@[simp] theorem extendCallback_rs : (extendCallback words s).rs = s.rs := rfl
@[simp] theorem extendCallback_rst : (extendCallback words s).rst = s.rst := rfl
@[simp] theorem extendCallback_bl : (extendCallback words s).bl = s.bl := rfl
@[simp] theorem extendCallback_led : (extendCallback words s).led = s.led := rfl
@[simp] theorem extendCallback_dstate : (extendCallback words s).dstate = s.dstate := rfl
@[simp] theorem extendCallback_frameOpen : (extendCallback words s).frameOpen = s.frameOpen := rfl
@[simp] theorem extendCallback_tdCfg : (extendCallback words s).tdCfg = s.tdCfg := rfl
@[simp] theorem extendCallback_tdWidth : (extendCallback words s).tdWidth = s.tdWidth := rfl
@[simp] theorem extendCallback_tdDst : (extendCallback words s).tdDst = s.tdDst := rfl
@[simp] theorem extendCallback_tdDreq : (extendCallback words s).tdDreq = s.tdDreq := rfl
@[simp] theorem extendCallback_tdSrc : (extendCallback words s).tdSrc = s.tdSrc := rfl
@[simp] theorem extendCallback_tdCount : (extendCallback words s).tdCount = s.tdCount := rfl
@[simp] theorem extendCallback_tdRem : (extendCallback words s).tdRem = s.tdRem := rfl
@[simp] theorem extendCallback_cbValid : (extendCallback words s).cbValid = s.cbValid := rfl
@[simp] theorem extendCallback_cbFn : (extendCallback words s).cbFn = s.cbFn := rfl
@[simp] theorem extendCallback_cbLine : (extendCallback words s).cbLine = s.cbLine := rfl
@[simp] theorem extendCallback_irqPending : (extendCallback words s).irqPending = s.irqPending := rfl
@[simp] theorem extendCallback_fifo : (extendCallback words s).fifo = s.fifo := rfl
@[simp] theorem extendCallback_err : (extendCallback words s).err = s.err := rfl
@[simp] theorem extendCallback_errCode : (extendCallback words s).errCode = s.errCode := rfl
@[simp] theorem extendCallback_result : (extendCallback words s).result = s.result := rfl
@[simp] theorem extendCallback_panel : (extendCallback words s).panel = s.panel := rfl
@[simp] theorem extendCallback_traceRev : (extendCallback words s).traceRev = s.traceRev := rfl
@[simp] theorem extendCallback_draws : (extendCallback words s).draws = s.draws := rfl

end

section
variable (len : Nat) (s : State)

@[simp] theorem advanceCallback_cfg : (advanceCallback len s).cfg = s.cfg := rfl
@[simp] theorem advanceCallback_prog : (advanceCallback len s).prog = s.prog := rfl
@[simp] theorem advanceCallback_mem : (advanceCallback len s).mem = s.mem := rfl
@[simp] theorem advanceCallback_turns : (advanceCallback len s).turns = s.turns := rfl
@[simp] theorem advanceCallback_cycle : (advanceCallback len s).cycle = s.cycle := rfl
@[simp] theorem advanceCallback_cpc : (advanceCallback len s).cpc = s.cpc := rfl
@[simp] theorem advanceCallback_cbProg : (advanceCallback len s).cbProg = s.cbProg.drop len := rfl
@[simp] theorem advanceCallback_wait : (advanceCallback len s).wait = s.wait := rfl
@[simp] theorem advanceCallback_cbWait : (advanceCallback len s).cbWait = s.cbWait := rfl
@[simp] theorem advanceCallback_cs : (advanceCallback len s).cs = s.cs := rfl
@[simp] theorem advanceCallback_rs : (advanceCallback len s).rs = s.rs := rfl
@[simp] theorem advanceCallback_rst : (advanceCallback len s).rst = s.rst := rfl
@[simp] theorem advanceCallback_bl : (advanceCallback len s).bl = s.bl := rfl
@[simp] theorem advanceCallback_led : (advanceCallback len s).led = s.led := rfl
@[simp] theorem advanceCallback_dstate : (advanceCallback len s).dstate = s.dstate := rfl
@[simp] theorem advanceCallback_frameOpen : (advanceCallback len s).frameOpen = s.frameOpen := rfl
@[simp] theorem advanceCallback_tdCfg : (advanceCallback len s).tdCfg = s.tdCfg := rfl
@[simp] theorem advanceCallback_tdWidth : (advanceCallback len s).tdWidth = s.tdWidth := rfl
@[simp] theorem advanceCallback_tdDst : (advanceCallback len s).tdDst = s.tdDst := rfl
@[simp] theorem advanceCallback_tdDreq : (advanceCallback len s).tdDreq = s.tdDreq := rfl
@[simp] theorem advanceCallback_tdSrc : (advanceCallback len s).tdSrc = s.tdSrc := rfl
@[simp] theorem advanceCallback_tdCount : (advanceCallback len s).tdCount = s.tdCount := rfl
@[simp] theorem advanceCallback_tdRem : (advanceCallback len s).tdRem = s.tdRem := rfl
@[simp] theorem advanceCallback_cbValid : (advanceCallback len s).cbValid = s.cbValid := rfl
@[simp] theorem advanceCallback_cbFn : (advanceCallback len s).cbFn = s.cbFn := rfl
@[simp] theorem advanceCallback_cbLine : (advanceCallback len s).cbLine = s.cbLine := rfl
@[simp] theorem advanceCallback_irqPending : (advanceCallback len s).irqPending = s.irqPending := rfl
@[simp] theorem advanceCallback_fifo : (advanceCallback len s).fifo = s.fifo := rfl
@[simp] theorem advanceCallback_err : (advanceCallback len s).err = s.err := rfl
@[simp] theorem advanceCallback_errCode : (advanceCallback len s).errCode = s.errCode := rfl
@[simp] theorem advanceCallback_result : (advanceCallback len s).result = s.result := rfl
@[simp] theorem advanceCallback_panel : (advanceCallback len s).panel = s.panel := rfl
@[simp] theorem advanceCallback_traceRev : (advanceCallback len s).traceRev = s.traceRev := rfl
@[simp] theorem advanceCallback_draws : (advanceCallback len s).draws = s.draws := rfl

end

section
variable (elem : BitVec 31) (v : Word) (s : State)

@[simp] theorem hostStore_cfg : (hostStore elem v s).cfg = s.cfg := rfl
@[simp] theorem hostStore_prog : (hostStore elem v s).prog = s.prog := rfl
@[simp] theorem hostStore_mem : (hostStore elem v s).mem = Memory.setElement s.mem (2 * elem.toNat) v := rfl
@[simp] theorem hostStore_turns : (hostStore elem v s).turns = s.turns := rfl
@[simp] theorem hostStore_cycle : (hostStore elem v s).cycle = s.cycle := rfl
@[simp] theorem hostStore_cpc : (hostStore elem v s).cpc = s.cpc := rfl
@[simp] theorem hostStore_cbProg : (hostStore elem v s).cbProg = s.cbProg := rfl
@[simp] theorem hostStore_wait : (hostStore elem v s).wait = s.wait := rfl
@[simp] theorem hostStore_cbWait : (hostStore elem v s).cbWait = s.cbWait := rfl
@[simp] theorem hostStore_cs : (hostStore elem v s).cs = s.cs := rfl
@[simp] theorem hostStore_rs : (hostStore elem v s).rs = s.rs := rfl
@[simp] theorem hostStore_rst : (hostStore elem v s).rst = s.rst := rfl
@[simp] theorem hostStore_bl : (hostStore elem v s).bl = s.bl := rfl
@[simp] theorem hostStore_led : (hostStore elem v s).led = s.led := rfl
@[simp] theorem hostStore_dstate : (hostStore elem v s).dstate = s.dstate := rfl
@[simp] theorem hostStore_frameOpen : (hostStore elem v s).frameOpen = s.frameOpen := rfl
@[simp] theorem hostStore_tdCfg : (hostStore elem v s).tdCfg = s.tdCfg := rfl
@[simp] theorem hostStore_tdWidth : (hostStore elem v s).tdWidth = s.tdWidth := rfl
@[simp] theorem hostStore_tdDst : (hostStore elem v s).tdDst = s.tdDst := rfl
@[simp] theorem hostStore_tdDreq : (hostStore elem v s).tdDreq = s.tdDreq := rfl
@[simp] theorem hostStore_tdSrc : (hostStore elem v s).tdSrc = s.tdSrc := rfl
@[simp] theorem hostStore_tdCount : (hostStore elem v s).tdCount = s.tdCount := rfl
@[simp] theorem hostStore_tdRem : (hostStore elem v s).tdRem = s.tdRem := rfl
@[simp] theorem hostStore_cbValid : (hostStore elem v s).cbValid = s.cbValid := rfl
@[simp] theorem hostStore_cbFn : (hostStore elem v s).cbFn = s.cbFn := rfl
@[simp] theorem hostStore_cbLine : (hostStore elem v s).cbLine = s.cbLine := rfl
@[simp] theorem hostStore_irqPending : (hostStore elem v s).irqPending = s.irqPending := rfl
@[simp] theorem hostStore_fifo : (hostStore elem v s).fifo = s.fifo := rfl
@[simp] theorem hostStore_err : (hostStore elem v s).err = s.err := rfl
@[simp] theorem hostStore_errCode : (hostStore elem v s).errCode = s.errCode := rfl
@[simp] theorem hostStore_result : (hostStore elem v s).result = s.result := rfl
@[simp] theorem hostStore_panel : (hostStore elem v s).panel = s.panel := rfl
@[simp] theorem hostStore_traceRev : (hostStore elem v s).traceRev = s.traceRev := rfl
@[simp] theorem hostStore_draws : (hostStore elem v s).draws = s.draws := rfl

end

section
variable (s : State)

@[simp] theorem liftWaits_cfg : (liftWaits s).cfg = s.cfg := rfl
@[simp] theorem liftWaits_prog : (liftWaits s).prog = s.prog := rfl
@[simp] theorem liftWaits_mem : (liftWaits s).mem = s.mem := rfl
@[simp] theorem liftWaits_turns : (liftWaits s).turns = s.turns := rfl
@[simp] theorem liftWaits_cycle : (liftWaits s).cycle = s.cycle := rfl
@[simp] theorem liftWaits_cpc : (liftWaits s).cpc = s.cpc := rfl
@[simp] theorem liftWaits_cbProg : (liftWaits s).cbProg = s.cbProg := rfl
@[simp] theorem liftWaits_wait : (liftWaits s).wait = s.wait.lift := rfl
@[simp] theorem liftWaits_cbWait : (liftWaits s).cbWait = s.cbWait.lift := rfl
@[simp] theorem liftWaits_cs : (liftWaits s).cs = s.cs := rfl
@[simp] theorem liftWaits_rs : (liftWaits s).rs = s.rs := rfl
@[simp] theorem liftWaits_rst : (liftWaits s).rst = s.rst := rfl
@[simp] theorem liftWaits_bl : (liftWaits s).bl = s.bl := rfl
@[simp] theorem liftWaits_led : (liftWaits s).led = s.led := rfl
@[simp] theorem liftWaits_dstate : (liftWaits s).dstate = s.dstate := rfl
@[simp] theorem liftWaits_frameOpen : (liftWaits s).frameOpen = s.frameOpen := rfl
@[simp] theorem liftWaits_tdCfg : (liftWaits s).tdCfg = s.tdCfg := rfl
@[simp] theorem liftWaits_tdWidth : (liftWaits s).tdWidth = s.tdWidth := rfl
@[simp] theorem liftWaits_tdDst : (liftWaits s).tdDst = s.tdDst := rfl
@[simp] theorem liftWaits_tdDreq : (liftWaits s).tdDreq = s.tdDreq := rfl
@[simp] theorem liftWaits_tdSrc : (liftWaits s).tdSrc = s.tdSrc := rfl
@[simp] theorem liftWaits_tdCount : (liftWaits s).tdCount = s.tdCount := rfl
@[simp] theorem liftWaits_tdRem : (liftWaits s).tdRem = s.tdRem := rfl
@[simp] theorem liftWaits_cbValid : (liftWaits s).cbValid = s.cbValid := rfl
@[simp] theorem liftWaits_cbFn : (liftWaits s).cbFn = s.cbFn := rfl
@[simp] theorem liftWaits_cbLine : (liftWaits s).cbLine = s.cbLine := rfl
@[simp] theorem liftWaits_irqPending : (liftWaits s).irqPending = s.irqPending := rfl
@[simp] theorem liftWaits_fifo : (liftWaits s).fifo = s.fifo := rfl
@[simp] theorem liftWaits_err : (liftWaits s).err = s.err := rfl
@[simp] theorem liftWaits_errCode : (liftWaits s).errCode = s.errCode := rfl
@[simp] theorem liftWaits_result : (liftWaits s).result = s.result := rfl
@[simp] theorem liftWaits_panel : (liftWaits s).panel = s.panel := rfl
@[simp] theorem liftWaits_traceRev : (liftWaits s).traceRev = s.traceRev := rfl
@[simp] theorem liftWaits_draws : (liftWaits s).draws = s.draws := rfl

end

section
variable (c : Context) (w : Wait) (s : State)

@[simp] theorem setWait_cfg : (setWait c w s).cfg = s.cfg := by cases c <;> rfl
@[simp] theorem setWait_prog : (setWait c w s).prog = s.prog := by cases c <;> rfl
@[simp] theorem setWait_mem : (setWait c w s).mem = s.mem := by cases c <;> rfl
@[simp] theorem setWait_turns : (setWait c w s).turns = s.turns := by cases c <;> rfl
@[simp] theorem setWait_cycle : (setWait c w s).cycle = s.cycle := by cases c <;> rfl
@[simp] theorem setWait_cpc : (setWait c w s).cpc = s.cpc := by cases c <;> rfl
@[simp] theorem setWait_cbProg : (setWait c w s).cbProg = s.cbProg := by cases c <;> rfl
@[simp] theorem setWait_cs : (setWait c w s).cs = s.cs := by cases c <;> rfl
@[simp] theorem setWait_rs : (setWait c w s).rs = s.rs := by cases c <;> rfl
@[simp] theorem setWait_rst : (setWait c w s).rst = s.rst := by cases c <;> rfl
@[simp] theorem setWait_bl : (setWait c w s).bl = s.bl := by cases c <;> rfl
@[simp] theorem setWait_led : (setWait c w s).led = s.led := by cases c <;> rfl
@[simp] theorem setWait_dstate : (setWait c w s).dstate = s.dstate := by cases c <;> rfl
@[simp] theorem setWait_frameOpen : (setWait c w s).frameOpen = s.frameOpen := by cases c <;> rfl
@[simp] theorem setWait_tdCfg : (setWait c w s).tdCfg = s.tdCfg := by cases c <;> rfl
@[simp] theorem setWait_tdWidth : (setWait c w s).tdWidth = s.tdWidth := by cases c <;> rfl
@[simp] theorem setWait_tdDst : (setWait c w s).tdDst = s.tdDst := by cases c <;> rfl
@[simp] theorem setWait_tdDreq : (setWait c w s).tdDreq = s.tdDreq := by cases c <;> rfl
@[simp] theorem setWait_tdSrc : (setWait c w s).tdSrc = s.tdSrc := by cases c <;> rfl
@[simp] theorem setWait_tdCount : (setWait c w s).tdCount = s.tdCount := by cases c <;> rfl
@[simp] theorem setWait_tdRem : (setWait c w s).tdRem = s.tdRem := by cases c <;> rfl
@[simp] theorem setWait_cbValid : (setWait c w s).cbValid = s.cbValid := by cases c <;> rfl
@[simp] theorem setWait_cbFn : (setWait c w s).cbFn = s.cbFn := by cases c <;> rfl
@[simp] theorem setWait_cbLine : (setWait c w s).cbLine = s.cbLine := by cases c <;> rfl
@[simp] theorem setWait_irqPending : (setWait c w s).irqPending = s.irqPending := by cases c <;> rfl
@[simp] theorem setWait_fifo : (setWait c w s).fifo = s.fifo := by cases c <;> rfl
@[simp] theorem setWait_err : (setWait c w s).err = s.err := by cases c <;> rfl
@[simp] theorem setWait_errCode : (setWait c w s).errCode = s.errCode := by cases c <;> rfl
@[simp] theorem setWait_result : (setWait c w s).result = s.result := by cases c <;> rfl
@[simp] theorem setWait_panel : (setWait c w s).panel = s.panel := by cases c <;> rfl
@[simp] theorem setWait_traceRev : (setWait c w s).traceRev = s.traceRev := by cases c <;> rfl
@[simp] theorem setWait_draws : (setWait c w s).draws = s.draws := by cases c <;> rfl
@[simp] theorem setWait_thread_wait : (setWait .thread w s).wait = w := rfl
@[simp] theorem setWait_thread_cbWait : (setWait .thread w s).cbWait = s.cbWait := rfl
@[simp] theorem setWait_interrupt_wait : (setWait .interrupt w s).wait = s.wait := rfl
@[simp] theorem setWait_interrupt_cbWait : (setWait .interrupt w s).cbWait = w := rfl
@[simp] theorem waitOf_thread : s.waitOf .thread = s.wait := rfl
@[simp] theorem waitOf_interrupt : s.waitOf .interrupt = s.cbWait := rfl
@[simp] theorem wordsOf_thread : s.wordsOf .thread = s.remaining := rfl
@[simp] theorem wordsOf_interrupt : s.wordsOf .interrupt = s.cbProg := rfl

end

section
variable (c : Context) (len : Nat) (s : State)

@[simp] theorem advance_cfg : (advance c len s).cfg = s.cfg := by cases c <;> rfl
@[simp] theorem advance_prog : (advance c len s).prog = s.prog := by cases c <;> rfl
@[simp] theorem advance_mem : (advance c len s).mem = s.mem := by cases c <;> rfl
@[simp] theorem advance_turns : (advance c len s).turns = s.turns := by cases c <;> rfl
@[simp] theorem advance_cycle : (advance c len s).cycle = s.cycle := by cases c <;> rfl
@[simp] theorem advance_wait : (advance c len s).wait = s.wait := by cases c <;> rfl
@[simp] theorem advance_cbWait : (advance c len s).cbWait = s.cbWait := by cases c <;> rfl
@[simp] theorem advance_cs : (advance c len s).cs = s.cs := by cases c <;> rfl
@[simp] theorem advance_rs : (advance c len s).rs = s.rs := by cases c <;> rfl
@[simp] theorem advance_rst : (advance c len s).rst = s.rst := by cases c <;> rfl
@[simp] theorem advance_bl : (advance c len s).bl = s.bl := by cases c <;> rfl
@[simp] theorem advance_led : (advance c len s).led = s.led := by cases c <;> rfl
@[simp] theorem advance_dstate : (advance c len s).dstate = s.dstate := by cases c <;> rfl
@[simp] theorem advance_frameOpen : (advance c len s).frameOpen = s.frameOpen := by cases c <;> rfl
@[simp] theorem advance_tdCfg : (advance c len s).tdCfg = s.tdCfg := by cases c <;> rfl
@[simp] theorem advance_tdWidth : (advance c len s).tdWidth = s.tdWidth := by cases c <;> rfl
@[simp] theorem advance_tdDst : (advance c len s).tdDst = s.tdDst := by cases c <;> rfl
@[simp] theorem advance_tdDreq : (advance c len s).tdDreq = s.tdDreq := by cases c <;> rfl
@[simp] theorem advance_tdSrc : (advance c len s).tdSrc = s.tdSrc := by cases c <;> rfl
@[simp] theorem advance_tdCount : (advance c len s).tdCount = s.tdCount := by cases c <;> rfl
@[simp] theorem advance_tdRem : (advance c len s).tdRem = s.tdRem := by cases c <;> rfl
@[simp] theorem advance_cbValid : (advance c len s).cbValid = s.cbValid := by cases c <;> rfl
@[simp] theorem advance_cbFn : (advance c len s).cbFn = s.cbFn := by cases c <;> rfl
@[simp] theorem advance_cbLine : (advance c len s).cbLine = s.cbLine := by cases c <;> rfl
@[simp] theorem advance_irqPending : (advance c len s).irqPending = s.irqPending := by cases c <;> rfl
@[simp] theorem advance_fifo : (advance c len s).fifo = s.fifo := by cases c <;> rfl
@[simp] theorem advance_err : (advance c len s).err = s.err := by cases c <;> rfl
@[simp] theorem advance_errCode : (advance c len s).errCode = s.errCode := by cases c <;> rfl
@[simp] theorem advance_result : (advance c len s).result = s.result := by cases c <;> rfl
@[simp] theorem advance_panel : (advance c len s).panel = s.panel := by cases c <;> rfl
@[simp] theorem advance_traceRev : (advance c len s).traceRev = s.traceRev := by cases c <;> rfl
@[simp] theorem advance_draws : (advance c len s).draws = s.draws := by cases c <;> rfl
@[simp] theorem advance_thread_cpc : (advance .thread len s).cpc = s.cpc + len := rfl
@[simp] theorem advance_thread_cbProg : (advance .thread len s).cbProg = s.cbProg := rfl
@[simp] theorem advance_interrupt_cpc : (advance .interrupt len s).cpc = s.cpc := rfl
@[simp] theorem advance_interrupt_cbProg : (advance .interrupt len s).cbProg = s.cbProg.drop len := rfl

end

end Sys2Proof.Machine
end

