-- ==== Sys2Proof/Laws/Ops.lean ====
section
/-!
SUPPORT. Spec lemmas of the shared operations: for each, what it leaves alone, and, from a drained FIFO, the state it
answers with. Later proofs cite them and do not unfold the operations.
-/

namespace Sys2Proof.Machine

@[simp] theorem driveRst_kept (l : Level) (s : State) :
    (driveRst l s).cfg = s.cfg ∧ (driveRst l s).prog = s.prog ∧ (driveRst l s).mem = s.mem ∧
    (driveRst l s).turns = s.turns ∧ (driveRst l s).cycle = s.cycle ∧ (driveRst l s).cpc = s.cpc ∧
    (driveRst l s).cbProg = s.cbProg ∧ (driveRst l s).wait = s.wait ∧ (driveRst l s).cbWait = s.cbWait ∧
    (driveRst l s).cs = s.cs ∧ (driveRst l s).rs = s.rs ∧ (driveRst l s).bl = s.bl ∧ (driveRst l s).led = s.led ∧
    (driveRst l s).dstate = s.dstate ∧ (driveRst l s).frameOpen = s.frameOpen ∧ (driveRst l s).tdCfg = s.tdCfg ∧
    (driveRst l s).tdWidth = s.tdWidth ∧ (driveRst l s).tdDst = s.tdDst ∧ (driveRst l s).tdDreq = s.tdDreq ∧
    (driveRst l s).tdSrc = s.tdSrc ∧ (driveRst l s).tdCount = s.tdCount ∧ (driveRst l s).tdRem = s.tdRem ∧
    (driveRst l s).cbValid = s.cbValid ∧ (driveRst l s).cbFn = s.cbFn ∧ (driveRst l s).cbLine = s.cbLine ∧
    (driveRst l s).irqPending = s.irqPending ∧ (driveRst l s).fifo = s.fifo ∧ (driveRst l s).err = s.err ∧
    (driveRst l s).errCode = s.errCode ∧ (driveRst l s).result = s.result ∧ (driveRst l s).draws = s.draws := by
  simp [driveRst]

@[simp] theorem driveRst_rst (l : Level) (s : State) : (driveRst l s).rst = l := rfl

@[simp] theorem driveRst_traceRev (l : Level) (s : State) : (driveRst l s).traceRev = .pin .rst l :: s.traceRev := rfl

@[simp] theorem driveRst_panel_high (s : State) : (driveRst .high s).panel = s.panel := rfl

@[simp] theorem driveRst_panel_low (s : State) : (driveRst .low s).panel = Panel.unknown := rfl

@[simp] theorem driveLed_kept (l : Lamp) (s : State) :
    (driveLed l s).cfg = s.cfg ∧ (driveLed l s).prog = s.prog ∧ (driveLed l s).mem = s.mem ∧
    (driveLed l s).turns = s.turns ∧ (driveLed l s).cycle = s.cycle ∧ (driveLed l s).cpc = s.cpc ∧
    (driveLed l s).cbProg = s.cbProg ∧ (driveLed l s).wait = s.wait ∧ (driveLed l s).cbWait = s.cbWait ∧
    (driveLed l s).cs = s.cs ∧ (driveLed l s).rs = s.rs ∧ (driveLed l s).rst = s.rst ∧ (driveLed l s).bl = s.bl ∧
    (driveLed l s).dstate = s.dstate ∧ (driveLed l s).frameOpen = s.frameOpen ∧ (driveLed l s).tdCfg = s.tdCfg ∧
    (driveLed l s).tdWidth = s.tdWidth ∧ (driveLed l s).tdDst = s.tdDst ∧ (driveLed l s).tdDreq = s.tdDreq ∧
    (driveLed l s).tdSrc = s.tdSrc ∧ (driveLed l s).tdCount = s.tdCount ∧ (driveLed l s).tdRem = s.tdRem ∧
    (driveLed l s).cbValid = s.cbValid ∧ (driveLed l s).cbFn = s.cbFn ∧ (driveLed l s).cbLine = s.cbLine ∧
    (driveLed l s).irqPending = s.irqPending ∧ (driveLed l s).fifo = s.fifo ∧ (driveLed l s).err = s.err ∧
    (driveLed l s).errCode = s.errCode ∧ (driveLed l s).result = s.result ∧ (driveLed l s).panel = s.panel ∧
    (driveLed l s).draws = s.draws := by
  unfold driveLed
  split <;> simp

@[simp] theorem driveLed_led (l : Lamp) (s : State) : (driveLed l s).led = if s.cfg.hasLedPin then l else s.led := by
  unfold driveLed
  split <;> simp

@[simp] theorem driveLed_traceRev (l : Lamp) (s : State) :
    (driveLed l s).traceRev = (ledEvents s.cfg l).reverse ++ s.traceRev := by
  unfold driveLed ledEvents
  split <;> simp

@[simp] theorem shiftAll_kept (ws : List Word) (s : State) :
    (shiftAll ws s).cfg = s.cfg ∧ (shiftAll ws s).prog = s.prog ∧ (shiftAll ws s).mem = s.mem ∧
    (shiftAll ws s).turns = s.turns ∧ (shiftAll ws s).cycle = s.cycle ∧ (shiftAll ws s).cpc = s.cpc ∧
    (shiftAll ws s).cbProg = s.cbProg ∧ (shiftAll ws s).wait = s.wait ∧ (shiftAll ws s).cbWait = s.cbWait ∧
    (shiftAll ws s).cs = s.cs ∧ (shiftAll ws s).rs = s.rs ∧ (shiftAll ws s).rst = s.rst ∧ (shiftAll ws s).bl = s.bl ∧
    (shiftAll ws s).led = s.led ∧ (shiftAll ws s).dstate = s.dstate ∧ (shiftAll ws s).frameOpen = s.frameOpen ∧
    (shiftAll ws s).tdCfg = s.tdCfg ∧ (shiftAll ws s).tdWidth = s.tdWidth ∧ (shiftAll ws s).tdDst = s.tdDst ∧
    (shiftAll ws s).tdDreq = s.tdDreq ∧ (shiftAll ws s).tdSrc = s.tdSrc ∧ (shiftAll ws s).tdCount = s.tdCount ∧
    (shiftAll ws s).tdRem = s.tdRem ∧ (shiftAll ws s).cbValid = s.cbValid ∧ (shiftAll ws s).cbFn = s.cbFn ∧
    (shiftAll ws s).cbLine = s.cbLine ∧ (shiftAll ws s).irqPending = s.irqPending ∧ (shiftAll ws s).fifo = s.fifo ∧
    (shiftAll ws s).err = s.err ∧ (shiftAll ws s).errCode = s.errCode ∧ (shiftAll ws s).result = s.result ∧
    (shiftAll ws s).draws = s.draws := by
  induction ws generalizing s with
  | nil => simp [shiftAll]
  | cons v rest ih => simpa [shiftAll] using ih (shiftOut v s)

@[simp] theorem tx_kept (w : Word) (s : State) :
    (tx w s).cfg = s.cfg ∧ (tx w s).prog = s.prog ∧ (tx w s).mem = s.mem ∧ (tx w s).turns = s.turns ∧
    (tx w s).cycle = s.cycle ∧ (tx w s).cpc = s.cpc ∧ (tx w s).cbProg = s.cbProg ∧ (tx w s).wait = s.wait ∧
    (tx w s).cbWait = s.cbWait ∧ (tx w s).cs = s.cs ∧ (tx w s).rs = s.rs ∧ (tx w s).rst = s.rst ∧ (tx w s).bl = s.bl ∧
    (tx w s).led = s.led ∧ (tx w s).dstate = s.dstate ∧ (tx w s).frameOpen = s.frameOpen ∧ (tx w s).tdCfg = s.tdCfg ∧
    (tx w s).tdWidth = s.tdWidth ∧ (tx w s).tdDst = s.tdDst ∧ (tx w s).tdDreq = s.tdDreq ∧ (tx w s).tdSrc = s.tdSrc ∧
    (tx w s).tdCount = s.tdCount ∧ (tx w s).tdRem = s.tdRem ∧ (tx w s).cbValid = s.cbValid ∧ (tx w s).cbFn = s.cbFn ∧
    (tx w s).cbLine = s.cbLine ∧ (tx w s).irqPending = s.irqPending ∧ (tx w s).err = s.err ∧
    (tx w s).errCode = s.errCode ∧ (tx w s).result = s.result ∧ (tx w s).draws = s.draws := by
  simp [tx]

@[simp] theorem tx_fifo (w : Word) (s : State) : (tx w s).fifo = [] := by
  simp [tx]

theorem canonical_shiftAll {s : State} (h : s.panel.Canonical) (ws : List Word) : (shiftAll ws s).panel.Canonical := by
  induction ws generalizing s with
  | nil => exact h
  | cons v rest ih => exact ih (Panel.canonical_consume h _ _ _)

/-- `Tx` keeps the far end's canonical form. -/
theorem canonical_tx {s : State} (h : s.panel.Canonical) (w : Word) : (tx w s).panel.Canonical :=
  canonical_shiftAll (s := { s with fifo := [] }) h _

/-- From a drained FIFO, `Tx(w)` is the one event `TX(rs, w)` (43 R210). -/
theorem tx_of_drained {s : State} (h : s.fifo = []) (w : Word) : tx w s = shiftOut w s := by
  have e : ({ s with fifo := [] } : State) = s := by cases s; simp_all
  simp [tx, h, shiftAll, e]

@[simp] theorem indexFrame_kept (a : Byte) (s : State) :
    (indexFrame a s).cfg = s.cfg ∧ (indexFrame a s).prog = s.prog ∧ (indexFrame a s).mem = s.mem ∧
    (indexFrame a s).turns = s.turns ∧ (indexFrame a s).cycle = s.cycle ∧ (indexFrame a s).cpc = s.cpc ∧
    (indexFrame a s).cbProg = s.cbProg ∧ (indexFrame a s).wait = s.wait ∧ (indexFrame a s).cbWait = s.cbWait ∧
    (indexFrame a s).rst = s.rst ∧ (indexFrame a s).bl = s.bl ∧ (indexFrame a s).led = s.led ∧
    (indexFrame a s).dstate = s.dstate ∧ (indexFrame a s).frameOpen = s.frameOpen ∧ (indexFrame a s).tdCfg = s.tdCfg ∧
    (indexFrame a s).tdWidth = s.tdWidth ∧ (indexFrame a s).tdDst = s.tdDst ∧ (indexFrame a s).tdDreq = s.tdDreq ∧
    (indexFrame a s).tdSrc = s.tdSrc ∧ (indexFrame a s).tdCount = s.tdCount ∧ (indexFrame a s).tdRem = s.tdRem ∧
    (indexFrame a s).cbValid = s.cbValid ∧ (indexFrame a s).cbFn = s.cbFn ∧ (indexFrame a s).cbLine = s.cbLine ∧
    (indexFrame a s).irqPending = s.irqPending ∧ (indexFrame a s).err = s.err ∧ (indexFrame a s).errCode = s.errCode ∧
    (indexFrame a s).result = s.result ∧ (indexFrame a s).draws = s.draws := by
  simp [indexFrame]

@[simp] theorem indexFrame_pins (a : Byte) (s : State) :
    (indexFrame a s).cs = .high ∧ (indexFrame a s).rs = .low ∧ (indexFrame a s).fifo = [] := by
  simp [indexFrame]

theorem canonical_indexFrame {s : State} (h : s.panel.Canonical) (a : Byte) : (indexFrame a s).panel.Canonical :=
  canonical_tx (s := driveCs .low (driveRs .low s)) h _

/-- The latched index after an index frame, whatever stood in the FIFO before it (20_memory R82). -/
theorem indexFrame_ir (a : Byte) (s : State) : (indexFrame a s).panel.ir = some a := by
  have last : ∀ (ws : List Word) (t : State), t.rs = .low →
      (shiftAll (ws ++ [indexWord a]) t).panel.ir = some a := by
    intro ws
    induction ws with
    | nil => intro t ht; simp [shiftAll, ht, Panel.consume]
    | cons v rest ih => intro t ht; exact ih (shiftOut v t) ht
  exact last s.fifo { driveCs .low (driveRs .low s) with fifo := [] } rfl

/-- WRIDX's actions from a drained FIFO (40 R130). -/
theorem indexFrame_drained {s : State} (h : s.fifo = []) (a : Byte) :
    indexFrame a s =
      { s with
        cs := .high
        rs := .low
        panel := { s.panel with ir := some a }
        traceRev := (indexFrameEvents a).reverse ++ s.traceRev } := by
  simp [indexFrame, tx_of_drained, h, driveCs, driveRs, shiftOut, emit, indexFrameEvents, Panel.consume,
    Panel.latchIndex_eq]

@[simp] theorem dataFrame_kept (v : Word) (s : State) :
    (dataFrame v s).cfg = s.cfg ∧ (dataFrame v s).prog = s.prog ∧ (dataFrame v s).mem = s.mem ∧
    (dataFrame v s).turns = s.turns ∧ (dataFrame v s).cycle = s.cycle ∧ (dataFrame v s).cpc = s.cpc ∧
    (dataFrame v s).cbProg = s.cbProg ∧ (dataFrame v s).wait = s.wait ∧ (dataFrame v s).cbWait = s.cbWait ∧
    (dataFrame v s).rst = s.rst ∧ (dataFrame v s).bl = s.bl ∧ (dataFrame v s).led = s.led ∧
    (dataFrame v s).dstate = s.dstate ∧ (dataFrame v s).frameOpen = s.frameOpen ∧ (dataFrame v s).tdCfg = s.tdCfg ∧
    (dataFrame v s).tdWidth = s.tdWidth ∧ (dataFrame v s).tdDst = s.tdDst ∧ (dataFrame v s).tdDreq = s.tdDreq ∧
    (dataFrame v s).tdSrc = s.tdSrc ∧ (dataFrame v s).tdCount = s.tdCount ∧ (dataFrame v s).tdRem = s.tdRem ∧
    (dataFrame v s).cbValid = s.cbValid ∧ (dataFrame v s).cbFn = s.cbFn ∧ (dataFrame v s).cbLine = s.cbLine ∧
    (dataFrame v s).irqPending = s.irqPending ∧ (dataFrame v s).err = s.err ∧ (dataFrame v s).errCode = s.errCode ∧
    (dataFrame v s).result = s.result ∧ (dataFrame v s).draws = s.draws := by
  simp [dataFrame]

@[simp] theorem dataFrame_pins (v : Word) (s : State) :
    (dataFrame v s).cs = .high ∧ (dataFrame v s).rs = .high ∧ (dataFrame v s).fifo = [] := by
  simp [dataFrame]

theorem canonical_dataFrame {s : State} (h : s.panel.Canonical) (v : Word) : (dataFrame v s).panel.Canonical :=
  canonical_tx (s := driveCs .low (driveRs .high s)) h _

/-- WRDAT's actions from a drained FIFO (40 R131). -/
theorem dataFrame_drained {s : State} (h : s.fifo = []) (v : Word) :
    dataFrame v s =
      { s with
        cs := .high
        rs := .high
        panel := Panel.dataWord s.cfg v s.panel
        traceRev := (dataFrameEvents v).reverse ++ s.traceRev } := by
  simp [dataFrame, tx_of_drained, h, driveCs, driveRs, shiftOut, emit, dataFrameEvents, Panel.consume]

@[simp] theorem writeRegister_kept (a : Byte) (v : Word) (s : State) :
    (writeRegister a v s).cfg = s.cfg ∧ (writeRegister a v s).prog = s.prog ∧ (writeRegister a v s).mem = s.mem ∧
    (writeRegister a v s).turns = s.turns ∧ (writeRegister a v s).cycle = s.cycle ∧
    (writeRegister a v s).cpc = s.cpc ∧ (writeRegister a v s).cbProg = s.cbProg ∧
    (writeRegister a v s).wait = s.wait ∧ (writeRegister a v s).cbWait = s.cbWait ∧
    (writeRegister a v s).rst = s.rst ∧ (writeRegister a v s).bl = s.bl ∧ (writeRegister a v s).led = s.led ∧
    (writeRegister a v s).dstate = s.dstate ∧ (writeRegister a v s).frameOpen = s.frameOpen ∧
    (writeRegister a v s).tdCfg = s.tdCfg ∧ (writeRegister a v s).tdWidth = s.tdWidth ∧
    (writeRegister a v s).tdDst = s.tdDst ∧ (writeRegister a v s).tdDreq = s.tdDreq ∧
    (writeRegister a v s).tdSrc = s.tdSrc ∧ (writeRegister a v s).tdCount = s.tdCount ∧
    (writeRegister a v s).tdRem = s.tdRem ∧ (writeRegister a v s).cbValid = s.cbValid ∧
    (writeRegister a v s).cbFn = s.cbFn ∧ (writeRegister a v s).cbLine = s.cbLine ∧
    (writeRegister a v s).irqPending = s.irqPending ∧ (writeRegister a v s).err = s.err ∧
    (writeRegister a v s).errCode = s.errCode ∧ (writeRegister a v s).result = s.result ∧
    (writeRegister a v s).draws = s.draws := by
  simp [writeRegister]

@[simp] theorem writeRegister_pins (a : Byte) (v : Word) (s : State) :
    (writeRegister a v s).cs = .high ∧ (writeRegister a v s).rs = .high ∧ (writeRegister a v s).fifo = [] := by
  simp [writeRegister]

theorem canonical_writeRegister {s : State} (h : s.panel.Canonical) (a : Byte) (v : Word) :
    (writeRegister a v s).panel.Canonical :=
  canonical_dataFrame (canonical_indexFrame h a) v

/-- The far end after SETREG: the index is latched, then the data word goes to it (40 R132). -/
def Panel.write (c : Config) (p : Panel) (e : Byte × Word) : Panel :=
  Panel.dataWord c e.2 { p with ir := some e.1 }

/-- SETREG's actions from a drained FIFO (40 R132). -/
theorem writeRegister_drained {s : State} (h : s.fifo = []) (a : Byte) (v : Word) :
    writeRegister a v s =
      { s with
        cs := .high
        rs := .high
        panel := Panel.write s.cfg s.panel (a, v)
        traceRev := (registerEvents a v).reverse ++ s.traceRev } := by
  rw [writeRegister, dataFrame_drained (by simp), indexFrame_drained h]
  simp [Panel.write, registerEvents]

@[simp] theorem writeRegisters_kept (table : List (Byte × Word)) (s : State) :
    (writeRegisters table s).cfg = s.cfg ∧ (writeRegisters table s).prog = s.prog ∧
    (writeRegisters table s).mem = s.mem ∧ (writeRegisters table s).turns = s.turns ∧
    (writeRegisters table s).cycle = s.cycle ∧ (writeRegisters table s).cpc = s.cpc ∧
    (writeRegisters table s).cbProg = s.cbProg ∧ (writeRegisters table s).wait = s.wait ∧
    (writeRegisters table s).cbWait = s.cbWait ∧ (writeRegisters table s).rst = s.rst ∧
    (writeRegisters table s).bl = s.bl ∧ (writeRegisters table s).led = s.led ∧
    (writeRegisters table s).dstate = s.dstate ∧ (writeRegisters table s).frameOpen = s.frameOpen ∧
    (writeRegisters table s).tdCfg = s.tdCfg ∧ (writeRegisters table s).tdWidth = s.tdWidth ∧
    (writeRegisters table s).tdDst = s.tdDst ∧ (writeRegisters table s).tdDreq = s.tdDreq ∧
    (writeRegisters table s).tdSrc = s.tdSrc ∧ (writeRegisters table s).tdCount = s.tdCount ∧
    (writeRegisters table s).tdRem = s.tdRem ∧ (writeRegisters table s).cbValid = s.cbValid ∧
    (writeRegisters table s).cbFn = s.cbFn ∧ (writeRegisters table s).cbLine = s.cbLine ∧
    (writeRegisters table s).irqPending = s.irqPending ∧ (writeRegisters table s).err = s.err ∧
    (writeRegisters table s).errCode = s.errCode ∧ (writeRegisters table s).result = s.result ∧
    (writeRegisters table s).draws = s.draws := by
  induction table generalizing s with
  | nil => simp [writeRegisters]
  | cons p rest ih => simpa [writeRegisters] using ih (writeRegister p.1 p.2 s)

theorem canonical_writeRegisters {s : State} (h : s.panel.Canonical) (table : List (Byte × Word)) :
    (writeRegisters table s).panel.Canonical := by
  induction table generalizing s with
  | nil => exact h
  | cons p rest ih => exact ih (canonical_writeRegister h p.1 p.2)

theorem writeRegisters_fifo {s : State} (h : s.fifo = []) (table : List (Byte × Word)) :
    (writeRegisters table s).fifo = [] := by
  induction table generalizing s with
  | nil => exact h
  | cons p rest ih => exact ih (by simp)

/-- A table of register writes leaves CS high (40 R137), unless it is empty and CS was low. -/
theorem writeRegisters_cs {s : State} (h : s.cs = .high) (table : List (Byte × Word)) :
    (writeRegisters table s).cs = .high := by
  induction table generalizing s with
  | nil => exact h
  | cons p rest ih => exact ih (by simp)

theorem writeRegisters_rs {s : State} (h : s.rs = .high) (table : List (Byte × Word)) :
    (writeRegisters table s).rs = .high := by
  induction table generalizing s with
  | nil => exact h
  | cons p rest ih => exact ih (by simp)

/-- A non-empty table of register writes leaves CS and RS high and the FIFO empty. -/
theorem writeRegisters_pins {table : List (Byte × Word)} (hn : table ≠ []) (s : State) :
    (writeRegisters table s).cs = .high ∧ (writeRegisters table s).rs = .high ∧ (writeRegisters table s).fifo = [] := by
  cases table with
  | nil => exact absurd rfl hn
  | cons p rest =>
    exact ⟨writeRegisters_cs (by simp) rest, writeRegisters_rs (by simp) rest, writeRegisters_fifo (by simp) rest⟩

/-- The events of a table of register writes from a drained FIFO (41 R155, R157). -/
theorem writeRegisters_traceRev {s : State} (h : s.fifo = []) (table : List (Byte × Word)) :
    (writeRegisters table s).traceRev = (tableEvents table).reverse ++ s.traceRev := by
  induction table generalizing s with
  | nil => simp [writeRegisters, tableEvents]
  | cons p rest ih =>
    have e := ih (s := writeRegister p.1 p.2 s) (by simp)
    rw [writeRegisters, e, writeRegister_drained h]
    simp [tableEvents]

/-- The far end after a table of register writes from a drained FIFO. -/
theorem writeRegisters_panel {s : State} (h : s.fifo = []) (table : List (Byte × Word)) :
    (writeRegisters table s).panel = table.foldl (Panel.write s.cfg) s.panel := by
  induction table generalizing s with
  | nil => rfl
  | cons p rest ih =>
    have e := ih (s := writeRegister p.1 p.2 s) (by simp)
    rw [writeRegisters, e, writeRegister_drained h]
    rfl

@[simp] theorem readRegister_kept (a : Byte) (s : State) :
    (readRegister a s).cfg = s.cfg ∧ (readRegister a s).prog = s.prog ∧ (readRegister a s).mem = s.mem ∧
    (readRegister a s).turns = s.turns ∧ (readRegister a s).cycle = s.cycle ∧ (readRegister a s).cpc = s.cpc ∧
    (readRegister a s).cbProg = s.cbProg ∧ (readRegister a s).wait = s.wait ∧ (readRegister a s).cbWait = s.cbWait ∧
    (readRegister a s).rst = s.rst ∧ (readRegister a s).bl = s.bl ∧ (readRegister a s).led = s.led ∧
    (readRegister a s).dstate = s.dstate ∧ (readRegister a s).frameOpen = s.frameOpen ∧
    (readRegister a s).tdCfg = s.tdCfg ∧ (readRegister a s).tdWidth = s.tdWidth ∧ (readRegister a s).tdDst = s.tdDst ∧
    (readRegister a s).tdDreq = s.tdDreq ∧ (readRegister a s).tdSrc = s.tdSrc ∧
    (readRegister a s).tdCount = s.tdCount ∧ (readRegister a s).tdRem = s.tdRem ∧
    (readRegister a s).cbValid = s.cbValid ∧ (readRegister a s).cbFn = s.cbFn ∧ (readRegister a s).cbLine = s.cbLine ∧
    (readRegister a s).irqPending = s.irqPending ∧ (readRegister a s).err = s.err ∧
    (readRegister a s).errCode = s.errCode := by
  simp [readRegister]

@[simp] theorem readRegister_pins (a : Byte) (s : State) :
    (readRegister a s).cs = .high ∧ (readRegister a s).rs = .high ∧ (readRegister a s).fifo = [] ∧
    (readRegister a s).draws = s.draws + 1 := by
  simp [readRegister]

theorem canonical_readRegister {s : State} (h : s.panel.Canonical) (a : Byte) : (readRegister a s).panel.Canonical := by
  simpa [readRegister] using Panel.canonical_afterRead (canonical_indexFrame h a) s.cfg

/-- The word a read of register `a` receives: the far end's answer with `a` latched (20_memory R88). -/
def readValue (a : Byte) (s : State) : Word :=
  Panel.readAnswer s.cfg s.draws { s.panel with ir := some a }

/-- GETREG's actions from a drained FIFO (40 R133). -/
theorem readRegister_drained {s : State} (h : s.fifo = []) (a : Byte) :
    readRegister a s =
      { s with
        cs := .high
        rs := .high
        draws := s.draws + 1
        result := (readValue a s).setWidth 32
        panel := Panel.afterRead s.cfg { s.panel with ir := some a }
        traceRev := (readEvents a (readValue a s)).reverse ++ s.traceRev } := by
  simp [readRegister, indexFrame_drained h, rx, rxWord, receiveWord, driveCs, driveRs, emit, readValue, readEvents]

@[simp] theorem openBurst_kept (s : State) :
    (openBurst s).cfg = s.cfg ∧ (openBurst s).prog = s.prog ∧ (openBurst s).mem = s.mem ∧
    (openBurst s).turns = s.turns ∧ (openBurst s).cycle = s.cycle ∧ (openBurst s).cpc = s.cpc ∧
    (openBurst s).cbProg = s.cbProg ∧ (openBurst s).wait = s.wait ∧ (openBurst s).cbWait = s.cbWait ∧
    (openBurst s).rst = s.rst ∧ (openBurst s).bl = s.bl ∧ (openBurst s).led = s.led ∧
    (openBurst s).dstate = s.dstate ∧ (openBurst s).frameOpen = s.frameOpen ∧ (openBurst s).tdCfg = s.tdCfg ∧
    (openBurst s).tdWidth = s.tdWidth ∧ (openBurst s).tdDst = s.tdDst ∧ (openBurst s).tdDreq = s.tdDreq ∧
    (openBurst s).tdSrc = s.tdSrc ∧ (openBurst s).tdCount = s.tdCount ∧ (openBurst s).tdRem = s.tdRem ∧
    (openBurst s).cbValid = s.cbValid ∧ (openBurst s).cbFn = s.cbFn ∧ (openBurst s).cbLine = s.cbLine ∧
    (openBurst s).irqPending = s.irqPending ∧ (openBurst s).err = s.err ∧ (openBurst s).errCode = s.errCode ∧
    (openBurst s).result = s.result ∧ (openBurst s).draws = s.draws := by
  simp [openBurst]

@[simp] theorem openBurst_pins (s : State) :
    (openBurst s).cs = .low ∧ (openBurst s).rs = .high ∧ (openBurst s).fifo = [] := by
  simp [openBurst]

/-- The open frame's index is the GRAM register (10_state R42.4). -/
@[simp] theorem openBurst_ir (s : State) : (openBurst s).panel.ir = some s.cfg.idx.gramRw := by
  simp [openBurst, indexFrame_ir]

theorem canonical_openBurst {s : State} (h : s.panel.Canonical) : (openBurst s).panel.Canonical :=
  canonical_indexFrame h _

/-- The PXSTART-actions from a drained FIFO (43 R200). -/
theorem openBurst_drained {s : State} (h : s.fifo = []) :
    openBurst s =
      { s with
        cs := .low
        rs := .high
        panel := { s.panel with ir := some s.cfg.idx.gramRw }
        traceRev := (openBurstEvents s.cfg).reverse ++ s.traceRev } := by
  simp [openBurst, indexFrame_drained h, driveCs, driveRs, emit, openBurstEvents]

@[simp] theorem closeBurst_kept (s : State) :
    (closeBurst s).cfg = s.cfg ∧ (closeBurst s).prog = s.prog ∧ (closeBurst s).mem = s.mem ∧
    (closeBurst s).turns = s.turns ∧ (closeBurst s).cycle = s.cycle ∧ (closeBurst s).cpc = s.cpc ∧
    (closeBurst s).cbProg = s.cbProg ∧ (closeBurst s).wait = s.wait ∧ (closeBurst s).cbWait = s.cbWait ∧
    (closeBurst s).rs = s.rs ∧ (closeBurst s).rst = s.rst ∧ (closeBurst s).bl = s.bl ∧ (closeBurst s).led = s.led ∧
    (closeBurst s).dstate = s.dstate ∧ (closeBurst s).frameOpen = s.frameOpen ∧ (closeBurst s).tdCfg = s.tdCfg ∧
    (closeBurst s).tdWidth = s.tdWidth ∧ (closeBurst s).tdDst = s.tdDst ∧ (closeBurst s).tdDreq = s.tdDreq ∧
    (closeBurst s).tdSrc = s.tdSrc ∧ (closeBurst s).tdCount = s.tdCount ∧ (closeBurst s).tdRem = s.tdRem ∧
    (closeBurst s).cbValid = s.cbValid ∧ (closeBurst s).cbFn = s.cbFn ∧ (closeBurst s).cbLine = s.cbLine ∧
    (closeBurst s).irqPending = s.irqPending ∧ (closeBurst s).fifo = s.fifo ∧ (closeBurst s).err = s.err ∧
    (closeBurst s).errCode = s.errCode ∧ (closeBurst s).result = s.result ∧ (closeBurst s).panel = s.panel ∧
    (closeBurst s).draws = s.draws := by
  simp [closeBurst]

@[simp] theorem closeBurst_cs (s : State) : (closeBurst s).cs = .high := rfl

@[simp] theorem closeBurst_traceRev (s : State) : (closeBurst s).traceRev = .pin .cs .high :: s.traceRev := rfl

@[simp] theorem txRepeat_kept (n : Nat) (w : Word) (s : State) :
    (txRepeat n w s).cfg = s.cfg ∧ (txRepeat n w s).prog = s.prog ∧ (txRepeat n w s).mem = s.mem ∧
    (txRepeat n w s).turns = s.turns ∧ (txRepeat n w s).cycle = s.cycle ∧ (txRepeat n w s).cpc = s.cpc ∧
    (txRepeat n w s).cbProg = s.cbProg ∧ (txRepeat n w s).wait = s.wait ∧ (txRepeat n w s).cbWait = s.cbWait ∧
    (txRepeat n w s).cs = s.cs ∧ (txRepeat n w s).rs = s.rs ∧ (txRepeat n w s).rst = s.rst ∧
    (txRepeat n w s).bl = s.bl ∧ (txRepeat n w s).led = s.led ∧ (txRepeat n w s).dstate = s.dstate ∧
    (txRepeat n w s).frameOpen = s.frameOpen ∧ (txRepeat n w s).tdCfg = s.tdCfg ∧
    (txRepeat n w s).tdWidth = s.tdWidth ∧ (txRepeat n w s).tdDst = s.tdDst ∧ (txRepeat n w s).tdDreq = s.tdDreq ∧
    (txRepeat n w s).tdSrc = s.tdSrc ∧ (txRepeat n w s).tdCount = s.tdCount ∧ (txRepeat n w s).tdRem = s.tdRem ∧
    (txRepeat n w s).cbValid = s.cbValid ∧ (txRepeat n w s).cbFn = s.cbFn ∧ (txRepeat n w s).cbLine = s.cbLine ∧
    (txRepeat n w s).irqPending = s.irqPending ∧ (txRepeat n w s).err = s.err ∧ (txRepeat n w s).errCode = s.errCode ∧
    (txRepeat n w s).result = s.result ∧ (txRepeat n w s).draws = s.draws := by
  induction n generalizing s with
  | zero => simp [txRepeat]
  | succ n ih => simpa [txRepeat] using ih (tx w s)

theorem txRepeat_fifo {s : State} (h : s.fifo = []) (n : Nat) (w : Word) : (txRepeat n w s).fifo = [] := by
  induction n generalizing s with
  | zero => exact h
  | succ n ih => exact ih (by simp)

theorem canonical_txRepeat {s : State} (h : s.panel.Canonical) (n : Nat) (w : Word) :
    (txRepeat n w s).panel.Canonical := by
  induction n generalizing s with
  | zero => exact h
  | succ n ih => exact ih (canonical_tx h w)

/-- The events of a burst of one colour from a drained FIFO with RS high (42 R178). -/
theorem txRepeat_traceRev {s : State} (h : s.fifo = []) (hr : s.rs = .high) (n : Nat) (w : Word) :
    (txRepeat n w s).traceRev = List.replicate n (.tx .high w) ++ s.traceRev := by
  induction n generalizing s with
  | zero => simp [txRepeat]
  | succ n ih =>
    have e := ih (s := tx w s) (by simp) (by simpa using hr)
    rw [txRepeat, e, tx_of_drained h, shiftOut_traceRev, hr, List.replicate_succ']
    simp

/-- The far end after a burst of one colour from a drained FIFO with RS high. -/
theorem txRepeat_panel {s : State} (h : s.fifo = []) (hr : s.rs = .high) (n : Nat) (w : Word) :
    (txRepeat n w s).panel = (Panel.dataWord s.cfg w)^[n] s.panel := by
  induction n generalizing s with
  | zero => rfl
  | succ n ih =>
    have e := ih (s := tx w s) (by simp) (by simpa using hr)
    rw [txRepeat, e, tx_of_drained h, Function.iterate_succ_apply]
    simp [hr, Panel.consume]

@[simp] theorem txBuffer_kept (n a : Nat) (s : State) :
    (txBuffer n a s).cfg = s.cfg ∧ (txBuffer n a s).prog = s.prog ∧ (txBuffer n a s).mem = s.mem ∧
    (txBuffer n a s).turns = s.turns ∧ (txBuffer n a s).cycle = s.cycle ∧ (txBuffer n a s).cpc = s.cpc ∧
    (txBuffer n a s).cbProg = s.cbProg ∧ (txBuffer n a s).wait = s.wait ∧ (txBuffer n a s).cbWait = s.cbWait ∧
    (txBuffer n a s).cs = s.cs ∧ (txBuffer n a s).rs = s.rs ∧ (txBuffer n a s).rst = s.rst ∧
    (txBuffer n a s).bl = s.bl ∧ (txBuffer n a s).led = s.led ∧ (txBuffer n a s).dstate = s.dstate ∧
    (txBuffer n a s).frameOpen = s.frameOpen ∧ (txBuffer n a s).tdCfg = s.tdCfg ∧
    (txBuffer n a s).tdWidth = s.tdWidth ∧ (txBuffer n a s).tdDst = s.tdDst ∧ (txBuffer n a s).tdDreq = s.tdDreq ∧
    (txBuffer n a s).tdSrc = s.tdSrc ∧ (txBuffer n a s).tdCount = s.tdCount ∧ (txBuffer n a s).tdRem = s.tdRem ∧
    (txBuffer n a s).cbValid = s.cbValid ∧ (txBuffer n a s).cbFn = s.cbFn ∧ (txBuffer n a s).cbLine = s.cbLine ∧
    (txBuffer n a s).irqPending = s.irqPending ∧ (txBuffer n a s).err = s.err ∧ (txBuffer n a s).errCode = s.errCode ∧
    (txBuffer n a s).result = s.result ∧ (txBuffer n a s).draws = s.draws := by
  induction n generalizing a s with
  | zero => simp [txBuffer]
  | succ n ih => simpa [txBuffer] using ih (a + 2) (tx (memReadWord a s) (memRead a s))

theorem txBuffer_fifo {s : State} (h : s.fifo = []) (n a : Nat) : (txBuffer n a s).fifo = [] := by
  induction n generalizing a s with
  | zero => exact h
  | succ n ih => exact ih (by simp) _

theorem canonical_txBuffer {s : State} (h : s.panel.Canonical) (n a : Nat) : (txBuffer n a s).panel.Canonical := by
  induction n generalizing a s with
  | zero => exact h
  | succ n ih => exact ih (canonical_tx (s := memRead a s) h _) _

theorem bufferEvents_succ (mem : List Host.Cell) (a n : Nat) :
    bufferEvents mem a (n + 1) =
      [.memRead a (Memory.element mem a), .tx .high (Memory.element mem a)] ++ bufferEvents mem (a + 2) n := by
  simp only [bufferEvents, List.range_succ_eq_map, List.flatMap_cons, List.flatMap_map, Nat.mul_zero, Nat.add_zero]
  congr 1
  congr 1
  funext i
  simp [show a + 2 * (i + 1) = a + 2 + 2 * i by omega]

/-- The reads and words of a buffer from a drained FIFO with RS high, in ascending element order (43 R203). -/
theorem txBuffer_traceRev {s : State} (h : s.fifo = []) (hr : s.rs = .high) (n a : Nat) :
    (txBuffer n a s).traceRev = (bufferEvents s.mem a n).reverse ++ s.traceRev := by
  induction n generalizing a s with
  | zero => simp [txBuffer, bufferEvents]
  | succ n ih =>
    have e := ih (s := tx (memReadWord a s) (memRead a s)) (by simp) (by simpa using hr) (a + 2)
    rw [txBuffer, e, tx_of_drained (by simpa using h), bufferEvents_succ]
    simp [hr, memReadWord]

/-- The far end after a buffer's burst from a drained FIFO with RS high: its elements in ascending order. -/
theorem txBuffer_panel {s : State} (h : s.fifo = []) (hr : s.rs = .high) (n a : Nat) :
    (txBuffer n a s).panel =
      (List.range n).foldl (fun p i => Panel.dataWord s.cfg (Memory.element s.mem (a + 2 * i)) p) s.panel := by
  induction n generalizing a s with
  | zero => rfl
  | succ n ih =>
    have e := ih (s := tx (memReadWord a s) (memRead a s)) (by simp) (by simpa using hr) (a + 2)
    rw [txBuffer, e, tx_of_drained (by simpa using h), List.range_succ_eq_map, List.foldl_cons, List.foldl_map]
    simp [hr, Panel.consume, memReadWord, show ∀ i, a + 2 * (i + 1) = a + 2 + 2 * i by intro i; omega]

@[simp] theorem setWindow_kept (win : Window) (s : State) :
    (setWindow win s).cfg = s.cfg ∧ (setWindow win s).prog = s.prog ∧ (setWindow win s).mem = s.mem ∧
    (setWindow win s).turns = s.turns ∧ (setWindow win s).cycle = s.cycle ∧ (setWindow win s).cpc = s.cpc ∧
    (setWindow win s).cbProg = s.cbProg ∧ (setWindow win s).wait = s.wait ∧ (setWindow win s).cbWait = s.cbWait ∧
    (setWindow win s).rst = s.rst ∧ (setWindow win s).bl = s.bl ∧ (setWindow win s).led = s.led ∧
    (setWindow win s).dstate = s.dstate ∧ (setWindow win s).frameOpen = s.frameOpen ∧
    (setWindow win s).tdCfg = s.tdCfg ∧ (setWindow win s).tdWidth = s.tdWidth ∧ (setWindow win s).tdDst = s.tdDst ∧
    (setWindow win s).tdDreq = s.tdDreq ∧ (setWindow win s).tdSrc = s.tdSrc ∧ (setWindow win s).tdCount = s.tdCount ∧
    (setWindow win s).tdRem = s.tdRem ∧ (setWindow win s).cbValid = s.cbValid ∧ (setWindow win s).cbFn = s.cbFn ∧
    (setWindow win s).cbLine = s.cbLine ∧ (setWindow win s).irqPending = s.irqPending ∧
    (setWindow win s).err = s.err ∧ (setWindow win s).errCode = s.errCode ∧ (setWindow win s).result = s.result ∧
    (setWindow win s).draws = s.draws := by
  simp [setWindow]

@[simp] theorem setWindow_pins (win : Window) (s : State) :
    (setWindow win s).cs = .high ∧ (setWindow win s).rs = .high ∧ (setWindow win s).fifo = [] :=
  writeRegisters_pins (by simp) s

theorem canonical_setWindow {s : State} (h : s.panel.Canonical) (win : Window) : (setWindow win s).panel.Canonical :=
  canonical_writeRegisters h _

/-- The six register writes of SETWIN from a drained FIFO (42 R170). -/
theorem setWindow_traceRev {s : State} (h : s.fifo = []) (win : Window) :
    (setWindow win s).traceRev = (tableEvents (windowTable s.cfg win)).reverse ++ s.traceRev :=
  writeRegisters_traceRev h _

theorem setWindow_panel {s : State} (h : s.fifo = []) (win : Window) :
    (setWindow win s).panel = (windowTable s.cfg win).foldl (Panel.write s.cfg) s.panel :=
  writeRegisters_panel h _

@[simp] theorem sendBuffer_kept (src : DWord) (n : Nat) (s : State) :
    (sendBuffer src n s).cfg = s.cfg ∧ (sendBuffer src n s).prog = s.prog ∧ (sendBuffer src n s).mem = s.mem ∧
    (sendBuffer src n s).turns = s.turns ∧ (sendBuffer src n s).cycle = s.cycle ∧ (sendBuffer src n s).cpc = s.cpc ∧
    (sendBuffer src n s).cbProg = s.cbProg ∧ (sendBuffer src n s).wait = s.wait ∧
    (sendBuffer src n s).cbWait = s.cbWait ∧ (sendBuffer src n s).rst = s.rst ∧ (sendBuffer src n s).bl = s.bl ∧
    (sendBuffer src n s).led = s.led ∧ (sendBuffer src n s).dstate = s.dstate ∧
    (sendBuffer src n s).frameOpen = s.frameOpen ∧ (sendBuffer src n s).tdCfg = s.tdCfg ∧
    (sendBuffer src n s).tdWidth = s.tdWidth ∧ (sendBuffer src n s).tdDst = s.tdDst ∧
    (sendBuffer src n s).tdDreq = s.tdDreq ∧ (sendBuffer src n s).tdSrc = s.tdSrc ∧
    (sendBuffer src n s).tdCount = s.tdCount ∧ (sendBuffer src n s).tdRem = s.tdRem ∧
    (sendBuffer src n s).cbValid = s.cbValid ∧ (sendBuffer src n s).cbFn = s.cbFn ∧
    (sendBuffer src n s).cbLine = s.cbLine ∧ (sendBuffer src n s).irqPending = s.irqPending ∧
    (sendBuffer src n s).err = s.err ∧ (sendBuffer src n s).errCode = s.errCode ∧
    (sendBuffer src n s).result = s.result ∧ (sendBuffer src n s).draws = s.draws := by
  simp [sendBuffer]

@[simp] theorem sendBuffer_pins (src : DWord) (n : Nat) (s : State) :
    (sendBuffer src n s).cs = .high ∧ (sendBuffer src n s).rs = .high ∧ (sendBuffer src n s).fifo = [] := by
  simp [sendBuffer, txBuffer_fifo]

theorem canonical_sendBuffer {s : State} (h : s.panel.Canonical) (src : DWord) (n : Nat) :
    (sendBuffer src n s).panel.Canonical :=
  canonical_txBuffer (canonical_openBurst h) _ _

@[simp] theorem fillRectangle_kept (x y w h color : Word) (s : State) :
    (fillRectangle x y w h color s).cfg = s.cfg ∧ (fillRectangle x y w h color s).prog = s.prog ∧
    (fillRectangle x y w h color s).mem = s.mem ∧ (fillRectangle x y w h color s).turns = s.turns ∧
    (fillRectangle x y w h color s).cycle = s.cycle ∧ (fillRectangle x y w h color s).cpc = s.cpc ∧
    (fillRectangle x y w h color s).cbProg = s.cbProg ∧ (fillRectangle x y w h color s).wait = s.wait ∧
    (fillRectangle x y w h color s).cbWait = s.cbWait ∧ (fillRectangle x y w h color s).rst = s.rst ∧
    (fillRectangle x y w h color s).bl = s.bl ∧ (fillRectangle x y w h color s).led = s.led ∧
    (fillRectangle x y w h color s).dstate = s.dstate ∧ (fillRectangle x y w h color s).frameOpen = s.frameOpen ∧
    (fillRectangle x y w h color s).tdCfg = s.tdCfg ∧ (fillRectangle x y w h color s).tdWidth = s.tdWidth ∧
    (fillRectangle x y w h color s).tdDst = s.tdDst ∧ (fillRectangle x y w h color s).tdDreq = s.tdDreq ∧
    (fillRectangle x y w h color s).tdSrc = s.tdSrc ∧ (fillRectangle x y w h color s).tdCount = s.tdCount ∧
    (fillRectangle x y w h color s).tdRem = s.tdRem ∧ (fillRectangle x y w h color s).cbValid = s.cbValid ∧
    (fillRectangle x y w h color s).cbFn = s.cbFn ∧ (fillRectangle x y w h color s).cbLine = s.cbLine ∧
    (fillRectangle x y w h color s).irqPending = s.irqPending ∧ (fillRectangle x y w h color s).err = s.err ∧
    (fillRectangle x y w h color s).errCode = s.errCode ∧ (fillRectangle x y w h color s).result = s.result ∧
    (fillRectangle x y w h color s).draws = s.draws := by
  simp [fillRectangle]

@[simp] theorem fillRectangle_pins (x y w h color : Word) (s : State) :
    (fillRectangle x y w h color s).cs = .high ∧ (fillRectangle x y w h color s).rs = .high ∧
    (fillRectangle x y w h color s).fifo = [] := by
  simp [fillRectangle, txRepeat_fifo]

theorem canonical_fillRectangle {s : State} (hp : s.panel.Canonical) (x y w h color : Word) :
    (fillRectangle x y w h color s).panel.Canonical :=
  canonical_txRepeat (canonical_openBurst (canonical_setWindow hp _)) _ _

/-- What the admission check of an ordinary command admits (60 R245). -/
theorem admission_ordinary_none {s : State} :
    admission .ordinary s = none ↔ s.dstate = .idle ∧ s.frameOpen = false := by
  cases hd : s.dstate <;> cases hf : s.frameOpen <;> simp [admission, require, hd, hf]

/-- What the admission check of PXWORD and PXEND admits (60 R245). -/
theorem admission_inFrame_none {s : State} :
    admission .inFrame s = none ↔ s.dstate = .idle ∧ s.frameOpen = true := by
  cases hd : s.dstate <;> cases hf : s.frameOpen <;> simp [admission, require, hd, hf]

/-- What the admission check of WAITCB admits (60 R245). -/
theorem admission_waiting_none {s : State} : admission .waiting s = none ↔ s.frameOpen = false := by
  cases hf : s.frameOpen <;> simp [admission, require, hf]

theorem require_none {ok : Bool} {v : Violation} : require ok v = none ↔ ok = true := by
  cases ok <;> simp [require]

/-- A checked command answers a next state: the violation's entry, or its effect when every check passes. -/
theorem checked_cases {o : Option Violation} {effect : State → State} {s t : State}
    (h : checked o effect s = .next t) : (∃ v, o = some v ∧ t = raise v s) ∨ (o = none ∧ t = effect s) := by
  cases o with
  | none => right; simpa [checked, eq_comm] using h
  | some v => left; exact ⟨v, rfl, by simpa [checked, eq_comm] using h⟩

@[simp] theorem checked_none (effect : State → State) (s : State) : checked none effect s = .next (effect s) := rfl

@[simp] theorem checked_some (v : Violation) (effect : State → State) (s : State) :
    checked (some v) effect s = .next (raise v s) := rfl

theorem whileSelected_cases {effect : State → State} {s t : State} (h : whileSelected effect s = .next t) :
    s.cs = .low ∧ t = effect s := by
  unfold whileSelected at h
  split at h
  · exact ⟨‹_›, by simpa [eq_comm] using h⟩
  · cases h

theorem whileSelected_low {s : State} (h : s.cs = .low) (effect : State → State) :
    whileSelected effect s = .next (effect s) := by
  simp [whileSelected, h]

end Sys2Proof.Machine
end

