-- ==== Sys2Proof/Laws/Init.lean ====
section
/-!
SUPPORT. Spec lemmas of INIT (41_init_sequencer): what its stages 1 to 8 and the descriptor leave, from a drained FIFO.
-/

namespace Sys2Proof.Machine

/-- What a table of register writes leaves, from a drained FIFO with CS and RS high or with a table that is not empty. -/
def writesDone (table : List (Byte × Word)) (s : State) : State :=
  { s with
    cs := .high
    rs := .high
    panel := table.foldl (Panel.write s.cfg) s.panel
    traceRev := (tableEvents table).reverse ++ s.traceRev }

@[simp] theorem writesDone_cfg (table : List (Byte × Word)) (s : State) : (writesDone table s).cfg = s.cfg := rfl

@[simp] theorem writesDone_fifo (table : List (Byte × Word)) (s : State) : (writesDone table s).fifo = s.fifo := rfl

@[simp] theorem writesDone_cs (table : List (Byte × Word)) (s : State) : (writesDone table s).cs = .high := rfl

@[simp] theorem writesDone_rs (table : List (Byte × Word)) (s : State) : (writesDone table s).rs = .high := rfl

theorem writeRegister_eq_writesDone {s : State} (h : s.fifo = []) (a : Byte) (v : Word) :
    writeRegister a v s = writesDone [(a, v)] s := by
  simp [writeRegister_drained h, writesDone, tableEvents]

theorem writesDone_cons (p : Byte × Word) (rest : List (Byte × Word)) (s : State) :
    writesDone (p :: rest) s = writesDone rest (writesDone [p] s) := by
  simp [writesDone, tableEvents]

theorem writeRegisters_eq_writesDone {s : State} (h : s.fifo = []) {table : List (Byte × Word)}
    (hp : table ≠ [] ∨ (s.cs = .high ∧ s.rs = .high)) : writeRegisters table s = writesDone table s := by
  induction table generalizing s with
  | nil =>
    obtain hp | ⟨hc, hr⟩ := hp
    · exact absurd rfl hp
    · simp only [writeRegisters, writesDone, tableEvents, List.foldl_nil, List.flatMap_nil, List.reverse_nil,
        List.nil_append]
      cases s
      cases hc
      cases hr
      rfl
  | cons p rest ih =>
    have e : writeRegister p.1 p.2 s = writesDone [p] s := writeRegister_eq_writesDone h p.1 p.2
    rw [writeRegisters, e, ih (s := writesDone [p] s) h (Or.inr ⟨rfl, rfl⟩), ← writesDone_cons]

theorem canonical_foldl_write {p : Panel} (hp : p.Canonical) (c : Config) (table : List (Byte × Word)) :
    (table.foldl (Panel.write c) p).Canonical := by
  induction table generalizing p with
  | nil => exact hp
  | cons e rest ih =>
    exact ih (Panel.canonical_consume (p := { p with ir := some e.1 }) (Panel.canonical_of_lists hp rfl rfl) c .high e.2)

/-- What stages 1 and 2 leave (41 R151, R153). -/
def pinsArmed (s : State) : State :=
  { s with
    cs := .high
    rs := .low
    rst := .high
    bl := .off
    led := if s.cfg.hasLedPin then .off else s.led
    panel := Panel.unknown
    traceRev := (initPinEvents s.cfg).reverse ++ s.traceRev }

theorem initResetPulse_initPinArm (s : State) : initResetPulse (initPinArm s) = pinsArmed s := by
  cases hl : s.cfg.hasLedPin <;>
    simp [initResetPulse, initPinArm, pinsArmed, delay, driveRst, driveLed, driveBl, driveRs, driveCs, emit, hl,
      initPinEvents, ledEvents]

/-- Every register INIT writes, in its order (41 R154 to R158). -/
def initTable (c : Config) : List (Byte × Word) :=
  c.idx.powerCtrl.map (fun i => (i, 0x0000#16)) ++ c.init.pwrOn ++ [(c.idx.powerCtrl2, c.init.boost)] ++
    (c.init.cfg ++ c.idx.gamma.zip c.init.gamma) ++ [(c.idx.dispCtrl, c.init.dispOn)]

/-- The register stages (41 R154 to R158) one after the other, from a drained FIFO. -/
theorem registerStages {s : State} (h : s.fifo = []) :
    initDisplayOn (initConfigTable (initBooster (initPowerOn (initPowerZero s)))) =
      { s with
        cs := .high
        rs := .high
        panel := (initTable s.cfg).foldl (Panel.write s.cfg) s.panel
        traceRev := (initTableEvents s.cfg).reverse ++ s.traceRev } := by
  have e1 : initPowerZero s = delay 40 (writesDone (s.cfg.idx.powerCtrl.map (fun i => (i, 0x0000#16))) s) := by
    rw [initPowerZero, writeRegisters_eq_writesDone h (Or.inl (by simp [RegMap.powerCtrl]))]
  rw [e1, initPowerOn, writeRegisters_eq_writesDone (by simp [h]) (by simp), initBooster,
    writeRegister_eq_writesDone (by simp [h]), initConfigTable,
    writeRegisters_eq_writesDone (by simp [h]) (by simp), initDisplayOn,
    writeRegister_eq_writesDone (by simp [h])]
  simp [writesDone, delay, emit, initTable, initTableEvents, tableEvents]

/-- Stages 1 to 8 and the descriptor, from a drained FIFO (41 R150 to R158). -/
theorem initSequence_drained {s : State} (h : s.fifo = []) :
    initSequence s =
      { s with
        cs := .high
        rs := .high
        rst := .high
        bl := .on
        led := if s.cfg.hasLedPin then .on else s.led
        tdCfg := true
        tdWidth := 16
        tdDst := s.cfg.busDataReg
        tdDreq := s.cfg.busTxDreq
        panel := (initTable s.cfg).foldl (Panel.write s.cfg) Panel.unknown
        traceRev := (initEvents s.cfg).reverse ++ s.traceRev } := by
  rw [initSequence, initResetPulse_initPinArm, registerStages (s := pinsArmed s) h]
  cases hl : s.cfg.hasLedPin <;>
    simp [configureDescriptor, initBacklightOn, driveLed, driveBl, emit, hl, pinsArmed, initEvents, ledEvents]

theorem canonical_initSequence {s : State} (h : s.fifo = []) : (initSequence s).panel.Canonical := by
  rw [initSequence_drained h]
  exact canonical_foldl_write Panel.canonical_unknown s.cfg (initTable s.cfg)

end Sys2Proof.Machine
end

