-- ==== Sys2Proof/Laws/Events.lean ====
section
/-!
SUPPORT. The shared operations from a drained FIFO as lists of events: the trace gains them and the far end meets them
(`State.withEvents`), besides the latches each leaves.
-/

namespace Sys2Proof.Machine

section
variable (events : List Event) (s : State)

@[simp] theorem withEvents_cfg : (s.withEvents events).cfg = s.cfg := rfl
@[simp] theorem withEvents_mem : (s.withEvents events).mem = s.mem := rfl
@[simp] theorem withEvents_dstate : (s.withEvents events).dstate = s.dstate := rfl
@[simp] theorem withEvents_frameOpen : (s.withEvents events).frameOpen = s.frameOpen := rfl
@[simp] theorem withEvents_fifo : (s.withEvents events).fifo = s.fifo := rfl
@[simp] theorem withEvents_panel : (s.withEvents events).panel = farEndAfter s.cfg events s.panel := rfl
@[simp] theorem withEvents_traceRev : (s.withEvents events).traceRev = events.reverse ++ s.traceRev := rfl

@[simp] theorem withEvents_trace : (s.withEvents events).trace = s.trace ++ events := by
  simp [State.trace]

end

@[simp] theorem farEndAfter_nil (c : Config) (p : Panel) : farEndAfter c [] p = p := rfl

@[simp] theorem farEndAfter_cons (c : Config) (e : Event) (rest : List Event) (p : Panel) :
    farEndAfter c (e :: rest) p = farEndAfter c rest (Panel.meet c p e) := rfl

@[simp] theorem farEndAfter_append (c : Config) (a b : List Event) (p : Panel) :
    farEndAfter c (a ++ b) p = farEndAfter c b (farEndAfter c a p) :=
  List.foldl_append

theorem withEvents_append (a b : List Event) (s : State) : s.withEvents (a ++ b) = (s.withEvents a).withEvents b := by
  simp [State.withEvents]

@[simp] theorem farEndAfter_indexFrame (c : Config) (a : Byte) (p : Panel) :
    farEndAfter c (indexFrameEvents a) p = { p with ir := some a } := by
  simp [indexFrameEvents, Panel.meet, Panel.consume, Panel.latchIndex_eq]

@[simp] theorem farEndAfter_dataFrame (c : Config) (v : Word) (p : Panel) :
    farEndAfter c (dataFrameEvents v) p = Panel.dataWord c v p := rfl

@[simp] theorem farEndAfter_register (c : Config) (a : Byte) (v : Word) (p : Panel) :
    farEndAfter c (registerEvents a v) p = Panel.write c p (a, v) := by
  simp [registerEvents, Panel.write]

@[simp] theorem farEndAfter_table (c : Config) (table : List (Byte × Word)) (p : Panel) :
    farEndAfter c (tableEvents table) p = table.foldl (Panel.write c) p := by
  induction table generalizing p with
  | nil => rfl
  | cons e rest ih =>
    rw [show tableEvents (e :: rest) = registerEvents e.1 e.2 ++ tableEvents rest from rfl, farEndAfter_append,
      farEndAfter_register, ih, List.foldl_cons]

@[simp] theorem farEndAfter_openBurst (c : Config) (p : Panel) :
    farEndAfter c (openBurstEvents c) p = { p with ir := some c.idx.gramRw } := by
  simp [openBurstEvents, Panel.meet]

@[simp] theorem farEndAfter_read (c : Config) (a : Byte) (v : Word) (p : Panel) :
    farEndAfter c (readEvents a v) p = Panel.afterRead c { p with ir := some a } := by
  simp [readEvents, Panel.meet]

@[simp] theorem farEndAfter_replicate (c : Config) (n : Nat) (w : Word) (p : Panel) :
    farEndAfter c (List.replicate n (.tx .high w)) p = (Panel.dataWord c w)^[n] p := by
  induction n generalizing p with
  | zero => rfl
  | succ n ih => rw [List.replicate_succ, farEndAfter_cons, ih, Function.iterate_succ_apply]; rfl

@[simp] theorem farEndAfter_buffer (c : Config) (mem : List Host.Cell) (a n : Nat) (p : Panel) :
    farEndAfter c (bufferEvents mem a n) p =
      (List.range n).foldl (fun p i => Panel.dataWord c (Memory.element mem (a + 2 * i)) p) p := by
  induction n with
  | zero => rfl
  | succ n ih =>
    rw [bufferEvents, List.range_succ, List.flatMap_append, farEndAfter_append, ← bufferEvents, ih, List.foldl_append]
    rfl

@[simp] theorem farEndAfter_led (c : Config) (l : Lamp) (p : Panel) : farEndAfter c (ledEvents c l) p = p := by
  unfold ledEvents
  split <;> rfl

/-- The reset pulse of stage 2, then every register INIT writes, in its order (41 R153 to R158). -/
theorem farEndAfter_init (c : Config) (p : Panel) :
    farEndAfter c (initEvents c) p = (initTable c).foldl (Panel.write c) Panel.unknown := by
  simp [initEvents, initPinEvents, initTableEvents, initTable, Panel.meet]

/-- INIT's stages 1 to 8 and the descriptor as their events (41 R150 to R158). -/
theorem initSequence_withEvents {s : State} (h : s.fifo = []) :
    initSequence s =
      { s.withEvents (initEvents s.cfg) with
        cs := .high
        rs := .high
        rst := .high
        bl := .on
        led := if s.cfg.hasLedPin then .on else s.led
        tdCfg := true
        tdWidth := 16
        tdDst := s.cfg.busDataReg
        tdDreq := s.cfg.busTxDreq } := by
  simp only [initSequence_drained h, State.withEvents, farEndAfter_init]

/-- A table of register writes as its events (41 R155, R157; 42 R170, R171). -/
theorem writesDone_withEvents (table : List (Byte × Word)) (s : State) :
    writesDone table s = { s.withEvents (tableEvents table) with cs := .high, rs := .high } := by
  simp only [writesDone, State.withEvents, farEndAfter_table]

/-- SETWIN's actions as their events (42 R170). -/
theorem setWindow_withEvents {s : State} (h : s.fifo = []) (win : Window) :
    setWindow win s = { s.withEvents (tableEvents (windowTable s.cfg win)) with cs := .high, rs := .high } := by
  rw [← writesDone_withEvents]
  exact writeRegisters_eq_writesDone h (Or.inl (by simp))

/-- `n` words of one colour in an open burst as their events (42 R178). -/
theorem txRepeat_withEvents {s : State} (h : s.fifo = []) (hr : s.rs = .high) (n : Nat) (w : Word) :
    txRepeat n w s = s.withEvents (List.replicate n (.tx .high w)) := by
  induction n generalizing s with
  | zero => rfl
  | succ n ih =>
    rw [txRepeat, ih (by simp) (by simpa using hr), tx_of_drained h, List.replicate_succ,
      ← List.singleton_append, withEvents_append]
    congr 1
    simp [shiftOut, emit, State.withEvents, hr, Panel.meet]

/-- A buffer's elements in an open burst as their events (43 R203). -/
theorem txBuffer_withEvents {s : State} (h : s.fifo = []) (hr : s.rs = .high) (n a : Nat) :
    txBuffer n a s = s.withEvents (bufferEvents s.mem a n) := by
  induction n generalizing s a with
  | zero => rfl
  | succ n ih =>
    rw [txBuffer, ih (by simp) (by simpa using hr), tx_of_drained (by simpa using h), bufferEvents_succ,
      withEvents_append]
    simp [shiftOut, emit, State.withEvents, hr, Panel.meet, memRead, memReadWord]

/-- The PXSTART-actions as their events (43 R200). -/
theorem openBurst_withEvents {s : State} (h : s.fifo = []) :
    openBurst s = { s.withEvents (openBurstEvents s.cfg) with cs := .low, rs := .high } := by
  simp only [openBurst_drained h, State.withEvents, farEndAfter_openBurst]

/-- WRPIX's actions as their events (43 R203). -/
theorem sendBuffer_withEvents {s : State} (h : s.fifo = []) (src : DWord) (n : Nat) :
    sendBuffer src n s =
      { s.withEvents (burstEvents s.cfg (bufferEvents s.mem src.toNat n)) with cs := .high, rs := .high } := by
  rw [sendBuffer, txBuffer_withEvents (by simp) (by simp), openBurst_withEvents h]
  simp [closeBurst, driveCs, emit, State.withEvents, burstEvents, Panel.meet]

/-- FILLRECT's actions as their events (42 R178). -/
theorem fillRectangle_withEvents {s : State} (hf : s.fifo = []) (x y w h color : Word) :
    fillRectangle x y w h color s =
      { s.withEvents (fillrectEvents s.cfg x y w h color) with cs := .high, rs := .high } := by
  rw [fillRectangle, txRepeat_withEvents (by simp) (by simp), openBurst_withEvents (by simp), setWindow_withEvents hf]
  simp [closeBurst, driveCs, emit, State.withEvents, fillrectEvents, burstEvents, rectWords, Panel.meet]

/-- GETREG's actions as their events (40 R133). -/
theorem readRegister_withEvents {s : State} (h : s.fifo = []) (a : Byte) :
    readRegister a s =
      { s.withEvents (readEvents a (readValue a s)) with
        cs := .high
        rs := .high
        draws := s.draws + 1
        result := (readValue a s).setWidth 32 } := by
  simp only [readRegister_drained h, State.withEvents, farEndAfter_read]

end Sys2Proof.Machine
end

