-- ==== Sys2Proof/Laws/Exec.lean ====
section
/-!
SUPPORT. For each instruction, once, everything a next state of it can be: the violation's entry, or the effect with
the conditions it is admitted under. Later proofs case on these and do not unfold the meanings.
-/

namespace Sys2Proof.Machine

variable {s t : State}

/-- What an ordinary command with no further check answers. -/
theorem ordinary_cases {effect : State → State} (h : checked (admission .ordinary s) effect s = .next t) :
    (∃ v, t = raise v s) ∨ (s.dstate = .idle ∧ s.frameOpen = false ∧ t = effect s) := by
  rcases checked_cases h with ⟨v, -, e⟩ | ⟨hn, e⟩
  · exact Or.inl ⟨v, e⟩
  · obtain ⟨hd, hf⟩ := admission_ordinary_none.1 hn
    exact Or.inr ⟨hd, hf, e⟩

theorem or_eq_none {a b : Option Violation} (h : a.or b = none) : a = none ∧ b = none := by
  cases a <;> simp_all

/-- What an ordinary command with a further check answers. -/
theorem guarded_cases {o : Option Violation} {effect : State → State}
    (h : checked ((admission .ordinary s).or o) effect s = .next t) :
    (∃ v, t = raise v s) ∨ (s.dstate = .idle ∧ s.frameOpen = false ∧ o = none ∧ t = effect s) := by
  rcases checked_cases h with ⟨v, -, e⟩ | ⟨hn, e⟩
  · exact Or.inl ⟨v, e⟩
  · obtain ⟨ha, ho⟩ := or_eq_none hn
    obtain ⟨hd, hf⟩ := admission_ordinary_none.1 ha
    exact Or.inr ⟨hd, hf, ho, e⟩

theorem execWridx_cases {a : Byte} (h : execWridx a s = .next t) :
    (∃ v, t = raise v s) ∨ (s.dstate = .idle ∧ s.frameOpen = false ∧ t = indexFrame a s) :=
  ordinary_cases h

theorem execWrdat_cases {v : Word} (h : execWrdat v s = .next t) :
    (∃ e, t = raise e s) ∨ (s.dstate = .idle ∧ s.frameOpen = false ∧ t = dataFrame v s) :=
  ordinary_cases h

theorem execSetreg_cases {a : Byte} {v : Word} (h : execSetreg a v s = .next t) :
    (∃ e, t = raise e s) ∨ (s.dstate = .idle ∧ s.frameOpen = false ∧ t = writeRegister a v s) :=
  ordinary_cases h

theorem execGetreg_cases {a : Byte} (h : execGetreg a s = .next t) :
    (∃ v, t = raise v s) ∨
      (s.dstate = .idle ∧ s.frameOpen = false ∧ s.cfg.readSupport = true ∧ t = readRegister a s) := by
  rcases checked_cases h with ⟨v, -, e⟩ | ⟨hn, e⟩
  · exact Or.inl ⟨v, e⟩
  · obtain ⟨hr, ha⟩ := or_eq_none hn
    obtain ⟨hd, hf⟩ := admission_ordinary_none.1 ha
    exact Or.inr ⟨hd, hf, require_none.1 hr, e⟩

theorem execSetwin_cases {hs he vs ve : Word} (h : execSetwin hs he vs ve s = .next t) :
    (∃ v, t = raise v s) ∨
      (s.dstate = .idle ∧ s.frameOpen = false ∧ validWindow ⟨hs, he, vs, ve⟩ = true ∧
        t = setWindow ⟨hs, he, vs, ve⟩ s) := by
  rcases guarded_cases h with e | ⟨hd, hf, ho, e⟩
  · exact Or.inl e
  · exact Or.inr ⟨hd, hf, require_none.1 ho, e⟩

theorem execSetaddr_cases {x y : Word} (h : execSetaddr x y s = .next t) :
    (∃ v, t = raise v s) ∨
      (s.dstate = .idle ∧ s.frameOpen = false ∧
        t = writeRegisters [(s.cfg.idx.ramAddr1, x), (s.cfg.idx.ramAddr2, y)] s) :=
  ordinary_cases h

/-- FILL's rectangle is the whole screen; the sizes stay variables, so that no proof unfolds its 38720 words. -/
theorem execFill_cases {color : Word} (h : execFill color s = .next t) :
    (∃ v, t = raise v s) ∨
      (s.dstate = .idle ∧ s.frameOpen = false ∧
        ∃ w h', w = 220#16 ∧ h' = 176#16 ∧ t = fillRectangle 0#16 0#16 w h' color s) := by
  unfold execFill at h
  generalize hw : 220#16 = w at h
  generalize hh : 176#16 = h' at h
  rcases ordinary_cases h with e | ⟨hd, hf, e⟩
  · exact Or.inl e
  · exact Or.inr ⟨hd, hf, w, h', rfl, rfl, e⟩

theorem execFillrect_cases {x y w h' color : Word} (h : execFillrect x y w h' color s = .next t) :
    (∃ v, t = raise v s) ∨
      (s.dstate = .idle ∧ s.frameOpen = false ∧ validRect x y w h' = true ∧ t = fillRectangle x y w h' color s) := by
  rcases guarded_cases h with e | ⟨hd, hf, ho, e⟩
  · exact Or.inl e
  · exact Or.inr ⟨hd, hf, require_none.1 ho, e⟩

theorem execBlit_cases {x y w h' : Word} {src : DWord} (h : execBlit x y w h' src s = .next t) :
    (∃ v, t = raise v s) ∨
      (s.dstate = .idle ∧ s.frameOpen = false ∧ validRect x y w h' = true ∧
        validBuffer src (rectWords w h') = true ∧
        t = sendBuffer src (rectWords w h') (setWindow (rectWindow x y w h') s)) := by
  rcases checked_cases h with ⟨v, -, e⟩ | ⟨hn, e⟩
  · exact Or.inl ⟨v, e⟩
  · obtain ⟨ha, hb⟩ := or_eq_none hn
    obtain ⟨ha, hr⟩ := or_eq_none ha
    obtain ⟨hd, hf⟩ := admission_ordinary_none.1 ha
    exact Or.inr ⟨hd, hf, require_none.1 hr, require_none.1 hb, e⟩

theorem execPxstart_cases (h : execPxstart s = .next t) :
    (∃ v, t = raise v s) ∨
      (s.dstate = .idle ∧ s.frameOpen = false ∧ t = { openBurst s with frameOpen := true }) :=
  ordinary_cases h

theorem execPxword_cases {w : Word} (h : execPxword w s = .next t) :
    (∃ v, t = raise v s) ∨ (s.dstate = .idle ∧ s.frameOpen = true ∧ s.cs = .low ∧ t = tx w s) := by
  unfold execPxword at h
  split at h
  · rename_i v _
    exact Or.inl ⟨v, by simpa [eq_comm] using h⟩
  · rename_i hn
    obtain ⟨hd, hf⟩ := admission_inFrame_none.1 hn
    obtain ⟨hc, e⟩ := whileSelected_cases h
    exact Or.inr ⟨hd, hf, hc, e⟩

theorem execPxend_cases (h : execPxend s = .next t) :
    (∃ v, t = raise v s) ∨
      (s.dstate = .idle ∧ s.frameOpen = true ∧ t = { closeBurst s with frameOpen := false }) := by
  rcases checked_cases h with ⟨v, -, e⟩ | ⟨hn, e⟩
  · exact Or.inl ⟨v, e⟩
  · obtain ⟨hd, hf⟩ := admission_inFrame_none.1 hn
    exact Or.inr ⟨hd, hf, e⟩

theorem execWrpix_cases {src n : DWord} (h : execWrpix src n s = .next t) :
    (∃ v, t = raise v s) ∨
      (s.dstate = .idle ∧ s.frameOpen = false ∧ validBuffer src n.toNat = true ∧ t = sendBuffer src n.toNat s) := by
  rcases guarded_cases h with e | ⟨hd, hf, ho, e⟩
  · exact Or.inl e
  · exact Or.inr ⟨hd, hf, require_none.1 ho, e⟩

theorem execDmawr_cases {src n : DWord} (h : execDmawr src n s = .next t) :
    (∃ v, t = raise v s) ∨
      (s.dstate = .idle ∧ s.frameOpen = false ∧ s.tdCfg = true ∧ validBuffer src n.toNat = true ∧ s.cbValid = true ∧
        t = startTransfer src n s) := by
  rcases checked_cases h with ⟨v, -, e⟩ | ⟨hn, e⟩
  · exact Or.inl ⟨v, e⟩
  · obtain ⟨ha, hc⟩ := or_eq_none hn
    obtain ⟨ha, hb⟩ := or_eq_none ha
    obtain ⟨ha, ht⟩ := or_eq_none ha
    obtain ⟨hd, hf⟩ := admission_ordinary_none.1 ha
    exact Or.inr ⟨hd, hf, require_none.1 ht, require_none.1 hb, require_none.1 hc, e⟩

theorem execInit_cases (h : execInit s = .next t) :
    (∃ v, t = raise v s) ∨ (s.dstate = .idle ∧ s.frameOpen = false ∧ t = initIdCheck (initSequence s)) := by
  unfold execInit at h
  rcases ordinary_cases h with e | ⟨hd, hf, e⟩
  · exact Or.inl e
  · exact Or.inr ⟨hd, hf, e⟩

theorem execSetcb_cases {line : Byte} {fn : DWord} (h : execSetcb line fn s = .next t) :
    (∃ v, t = raise v s) ∨
      (s.dstate = .idle ∧ s.frameOpen = false ∧ validLine s.cfg line = true ∧
        t = { s with cbLine := line, cbFn := fn, cbValid := true }) := by
  rcases guarded_cases h with e | ⟨hd, hf, ho, e⟩
  · exact Or.inl e
  · exact Or.inr ⟨hd, hf, require_none.1 ho, e⟩

theorem execWaitcb_cases (h : execWaitcb s = .next t) : (∃ v, t = raise v s) ∨ (s.frameOpen = false ∧ t = s) := by
  rcases checked_cases h with ⟨v, -, e⟩ | ⟨hn, e⟩
  · exact Or.inl ⟨v, e⟩
  · exact Or.inr ⟨admission_waiting_none.1 hn, e⟩

theorem onWire_cases {r : Level} {effect : State → State} (h : onWire r effect s = .next t) :
    s.rs = r ∧ s.cs = .low ∧ t = effect s := by
  unfold onWire at h
  split at h
  · obtain ⟨hc, e⟩ := whileSelected_cases h
    exact ⟨‹_›, hc, e⟩
  · cases h

theorem execWIdx_cases {a : Byte} (h : execWIdx a s = .next t) :
    s.rs = .low ∧ s.cs = .low ∧ t = shiftOut (indexWord a) s :=
  onWire_cases h

theorem execWDat_cases {d : Word} (h : execWDat d s = .next t) : s.rs = .high ∧ s.cs = .low ∧ t = shiftOut d s :=
  onWire_cases h

theorem execWRd_cases {v : Word} (h : execWRd v s = .next t) :
    s.cfg.readSupport = true ∧ s.rs = .high ∧ s.cs = .low ∧ t = receiveWord v s := by
  unfold execWRd at h
  split at h
  · exact ⟨‹_›, onWire_cases h⟩
  · cases h

/-- A word with RS high is the item W-DAT (30 R100). -/
theorem decodeWire_sent_high (v : Word) : decodeWire .sent (wireItem .high v) = some (.wDat v) := by
  simp [decodeWire]

/-- A received word with RS high is the item W-RD (30 R100). -/
theorem decodeWire_received_high (v : Word) : decodeWire .received (wireItem .high v) = some (.wRd v) := by
  simp [decodeWire]

/-- What the step leaves of INIT's stage 9 alone (41 R159). -/
theorem initIdCheck_cases (s : State) :
    (s.cfg.readSupport = false ∧ initIdCheck s = { s with result := 0#32 }) ∨
      (s.cfg.readSupport = true ∧ ∃ r, initIdCheck s = { readRegister s.cfg.idx.driverCode s with result := r }) := by
  unfold initIdCheck
  cases h : s.cfg.readSupport
  · exact Or.inl ⟨rfl, rfl⟩
  · exact Or.inr ⟨rfl, _, rfl⟩

end Sys2Proof.Machine
end

