-- ==== Sys2Proof/Laws/Memory.lean ====
section
/-!
SUPPORT. Laws of host memory: a read after a write, every other byte alone, and the canonical form is kept.
-/

namespace Sys2Proof.Machine

theorem Memory.byte_setByte_self {a : Nat} (ha : a < hostMemorySize) (m : List Host.Cell) (b : Byte) :
    Memory.byte (Memory.setByte m a b) a = b := by
  simp only [Memory.byte, Memory.setByte, ha, if_true]
  split
  · rename_i h
    simp [h]
  · simp

theorem Memory.byte_setByte_ne {a j : Nat} (h : j ≠ a) (m : List Host.Cell) (b : Byte) :
    Memory.byte (Memory.setByte m a b) j = Memory.byte m j := by
  simp only [Memory.byte, Memory.setByte]
  split
  · split
    · rw [Cells.get_erase_ne h]
    · rw [Cells.get_put_ne h]
  · rfl

theorem Memory.wf_setByte {m : List Host.Cell} (hm : Memory.wf m) (a : Nat) (b : Byte) :
    Memory.wf (Memory.setByte m a b) := by
  unfold Memory.setByte
  split
  · rename_i ha
    split
    · exact ⟨Cells.wf_erase hm.1 a, fun c hc => hm.2 c (Cells.mem_erase hc)⟩
    · rename_i hb
      refine ⟨Cells.wf_put hm.1 a b, fun c hc => ?_⟩
      rcases Cells.mem_put hc with rfl | hc
      · exact ⟨ha, hb⟩
      · exact hm.2 c hc
  · exact hm

theorem Memory.wf_setElement {m : List Host.Cell} (hm : Memory.wf m) (a : Nat) (v : Word) :
    Memory.wf (Memory.setElement m a v) :=
  Memory.wf_setByte (Memory.wf_setByte hm _ _) _ _

theorem Memory.byte_setElement_ne {a j : Nat} (h0 : j ≠ a) (h1 : j ≠ a + 1) (m : List Host.Cell) (v : Word) :
    Memory.byte (Memory.setElement m a v) j = Memory.byte m j := by
  rw [Memory.setElement, Memory.byte_setByte_ne h1, Memory.byte_setByte_ne h0]

theorem Memory.element_setElement_self {a : Nat} (ha : a + 1 < hostMemorySize) (m : List Host.Cell) (v : Word) :
    Memory.element (Memory.setElement m a v) a = v := by
  rw [Memory.element, Memory.setElement, Memory.byte_setByte_self ha, Memory.byte_setByte_ne (by omega),
    Memory.byte_setByte_self (by omega), word_of_fields]

theorem Memory.wf_nil : Memory.wf [] := by
  simp [Memory.wf, Cells.wf]

end Sys2Proof.Machine
end

