-- ==== Sys2Proof/Laws/PerInstr.lean ====
section
/-!
SUPPORT. Per instruction: its coded form is well-formed, so it selects its own row of the opcode map and carries exactly
that row's operand words (30_encoding R100, R103, R106).
-/

namespace Sys2Proof

theorem commandWellFormed_firstWord {op : Opcode} {a : Byte} {operands : List Word} (h : op.hasImm = true ∨ a = 0#8)
    (hl : operands.length + 1 = op.len) : Code.commandWellFormed (firstWord op.byte a :: operands) = true := by
  have hn : ¬(op.hasImm = false ∧ a ≠ 0#8) := by
    rcases h with h | h <;> simp [h]
  simp only [Code.commandWellFormed, select_firstWord, Opcode.ofByte_byte, if_neg hn]
  simpa [Opcode.row] using hl

theorem wireItem_high_and (w : Word) : wireItem .high w &&& 0x10000#17 = 0x10000#17 := by
  have h : wireItem .high w &&& (1#1 ++ 0#16) = (1#1 &&& 1#1) ++ (w &&& 0#16) := BitVec.and_append
  rw [show (0x10000#17) = 1#1 ++ 0#16 from rfl, h]
  simp

namespace Laws.CodeShape

/-- The coded form is well-formed. -/
def Statement (i : Instr) : Prop :=
  (encode i).wellFormed = true

theorem wridx (a : Byte) : Statement (.wridx a) :=
  commandWellFormed_firstWord (op := .wridx) (a := a) (Or.inl rfl) rfl

theorem wrdat (v : Word) : Statement (.wrdat v) :=
  commandWellFormed_firstWord (op := .wrdat) (a := 0#8) (Or.inr rfl) rfl

theorem setreg (a : Byte) (v : Word) : Statement (.setreg a v) :=
  commandWellFormed_firstWord (op := .setreg) (a := a) (Or.inl rfl) rfl

theorem getreg (a : Byte) : Statement (.getreg a) :=
  commandWellFormed_firstWord (op := .getreg) (a := a) (Or.inl rfl) rfl

theorem setwin (hs he vs ve : Word) : Statement (.setwin hs he vs ve) :=
  commandWellFormed_firstWord (op := .setwin) (a := 0#8) (Or.inr rfl) rfl

theorem setaddr (x y : Word) : Statement (.setaddr x y) :=
  commandWellFormed_firstWord (op := .setaddr) (a := 0#8) (Or.inr rfl) rfl

theorem pxstart : Statement .pxstart :=
  commandWellFormed_firstWord (op := .pxstart) (a := 0#8) (Or.inr rfl) rfl

theorem pxword (w : Word) : Statement (.pxword w) :=
  commandWellFormed_firstWord (op := .pxword) (a := 0#8) (Or.inr rfl) rfl

theorem pxend : Statement .pxend :=
  commandWellFormed_firstWord (op := .pxend) (a := 0#8) (Or.inr rfl) rfl

theorem wrpix (src n : DWord) : Statement (.wrpix src n) :=
  commandWellFormed_firstWord (op := .wrpix) (a := 0#8) (Or.inr rfl) rfl

theorem dmawr (src n : DWord) : Statement (.dmawr src n) :=
  commandWellFormed_firstWord (op := .dmawr) (a := 0#8) (Or.inr rfl) rfl

theorem fill (color : Word) : Statement (.fill color) :=
  commandWellFormed_firstWord (op := .fill) (a := 0#8) (Or.inr rfl) rfl

theorem fillrect (x y w h color : Word) : Statement (.fillrect x y w h color) :=
  commandWellFormed_firstWord (op := .fillrect) (a := 0#8) (Or.inr rfl) rfl

theorem blit (x y w h : Word) (src : DWord) : Statement (.blit x y w h src) :=
  commandWellFormed_firstWord (op := .blit) (a := 0#8) (Or.inr rfl) rfl

theorem init : Statement .init :=
  commandWellFormed_firstWord (op := .init) (a := 0#8) (Or.inr rfl) rfl

theorem setcb (line : Byte) (fn : DWord) : Statement (.setcb line fn) :=
  commandWellFormed_firstWord (op := .setcb) (a := line) (Or.inl rfl) rfl

theorem waitcb : Statement .waitcb :=
  commandWellFormed_firstWord (op := .waitcb) (a := 0#8) (Or.inr rfl) rfl

theorem wIdx (a : Byte) : Statement (.wIdx a) := by
  have h : ∀ b : Byte, Code.wireWellFormed .sent (wireItem .low (indexWord b)) = true := by decide
  exact h a

theorem wDat (d : Word) : Statement (.wDat d) := by
  simp [Statement, encode, Code.wellFormed, Code.wireWellFormed, wireItem_high_and]

theorem wRd (v : Word) : Statement (.wRd v) := by
  simp [Statement, encode, Code.wellFormed, Code.wireWellFormed, wireItem_high_and]

end Laws.CodeShape

end Sys2Proof
end

