-- ==== Sys2Proof/Laws/Turns.lean ====
section
/-!
SUPPORT. What a turn can do, once: the ways a command that is issued ends, the step of each turn that is listed, runs
step by step, and what is weakly fair of a run that comes to rest.
-/

namespace Sys2Proof.Machine

variable {run : Instr → State → Host.Outcome State Fault Refusal}

/-- Everything a next state of an issued command can be (10_state R33, 30 R107, 43 R209): nothing was there to issue, an
illegal command was recorded and passed, or a command ran, and was passed or holds. -/
theorem issueCommand_cases {c : Context} {s t : State} (h : issueCommand run c s = .next t) :
    (decodeCommand (s.wordsOf c) = .nothing ∧ t = s) ∨
    (∃ why len, decodeCommand (s.wordsOf c) = .illegal why len ∧ t = advance c len (raise .illegal s)) ∨
    ∃ i len u, decodeCommand (s.wordsOf c) = .command i len ∧ run i s = .next u ∧
      t = if commandReturns i s then advance c len u else setWait c .holding u := by
  unfold issueCommand at h
  split at h
  · rename_i hd
    injection h with h
    exact Or.inl ⟨hd, h.symm⟩
  · rename_i why len hd
    injection h with h
    exact Or.inr (Or.inl ⟨why, len, hd, h.symm⟩)
  · rename_i i len hd
    split at h
    · rename_i u hu
      injection h with h
      exact Or.inr (Or.inr ⟨i, len, u, hd, hu, h.symm⟩)
    · cases h
    · cases h

/-- Everything a next state of a context's turn can be (43 R209): that of the command issued, or, inside a WAITCB, the
same state while it holds, or its return. -/
theorem contextTurn_cases {c : Context} {s t : State} (h : contextTurn run c s = .next t) :
    (s.waitOf c = .none ∧ issueCommand run c s = .next t) ∨
    (s.waitOf c = .holding ∧ s.dstate ≠ .idle ∧ t = s) ∨
    (s.waitOf c ≠ .none ∧ (s.waitOf c = .lifted ∨ s.dstate = .idle) ∧ t = endWait c s) := by
  unfold contextTurn at h
  split at h
  · exact Or.inl ⟨‹_›, h⟩
  · rename_i hw
    injection h with h
    split at h
    · exact Or.inr (Or.inr ⟨by simp [hw], Or.inr ‹_›, h.symm⟩)
    · exact Or.inr (Or.inl ⟨hw, ‹_›, h.symm⟩)
  · rename_i hw
    injection h with h
    exact Or.inr (Or.inr ⟨by simp [hw], Or.inl hw, h.symm⟩)

/-- Only WAITCB can hold, in a transfer (43 R209). -/
theorem commandReturns_iff {i : Instr} {s : State} :
    commandReturns i s = true ↔ ¬(i = .waitcb ∧ s.dstate ≠ .idle ∧ s.frameOpen = false) := by
  unfold commandReturns
  by_cases hi : i = .waitcb <;> cases hd : s.dstate <;> cases hf : s.frameOpen <;> simp [hi]

/-- The step of the turn that is listed first (log 3). -/
theorem step_of_turn {s : State} {turn : Turn} {rest : List Turn} (h : s.turns = turn :: rest) :
    step s = runTurn exec turn { s with turns := rest } := by
  simp [step, takeTurn, h]

/-- The step of the round's first turn, when no turn is listed (log 3). -/
theorem step_of_round {s : State} {turn : Turn} {rest : List Turn} (h : s.turns = []) (hc : s.cycle = turn :: rest) :
    step s = runTurn exec turn { s with turns := rest } := by
  simp [step, takeTurn, h, hc]

theorem reaches_zero {s t : State} : Reaches s 0 t ↔ t = s := by
  exact ⟨fun h => (Host.Outcome.next.inj h).symm, fun h => by rw [h]; rfl⟩

theorem reaches_succ {s t : State} {k : Nat} : Reaches s (k + 1) t ↔ ∃ u, step s = .next u ∧ Reaches u k t := by
  simp only [Reaches, Host.Core.run, core]
  cases h : step s <;> simp

theorem reaches_add {s t : State} {k m : Nat} : Reaches s (k + m) t ↔ ∃ u, Reaches s k u ∧ Reaches u m t := by
  induction k generalizing s with
  | zero => simp [reaches_zero]
  | succ k ih =>
    rw [Nat.succ_add, reaches_succ]
    simp only [ih, reaches_succ]
    tauto

/-- A run is at one state at a time. -/
theorem reaches_unique {s t u : State} {k : Nat} (ht : Reaches s k t) (hu : Reaches s k u) : t = u := by
  rw [Reaches, ht] at hu
  injection hu

/-- A state that steps to itself is where its run stays. -/
theorem reaches_rest {s : State} (h : step s = .next s) (k : Nat) : Reaches s k s := by
  induction k with
  | zero => exact reaches_zero.2 rfl
  | succ k ih => exact reaches_succ.2 ⟨s, h, ih⟩

/-- A run that comes to rest with no agent's step enabled is weakly fair (70 R291). -/
theorem weaklyFair_of_rest {s t : State} {m : Nat} (hr : Reaches s m t) (ht : step t = .next t)
    (hd : ∀ a : Agent, a.enabled t = false) : WeaklyFair s := by
  intro a n h
  obtain ⟨u, hu, he⟩ := h (m + n) (by omega)
  obtain ⟨w, hw, hu⟩ := reaches_add.1 hu
  rw [reaches_unique hw hr] at hu
  rw [reaches_unique hu (reaches_rest ht n), hd a] at he
  cases he

end Sys2Proof.Machine
end

