-- ==== Sys2Proof/Tests/Slice0.lean ====
section
/-!
SUPPORT. Tests: the written-out words of every instruction, the checks of WellFormed, single steps against the vectors
of 95_test_vectors, and a witness for every statement that has hypotheses.
-/

open Sys2Proof
open Sys2Proof.Machine

namespace Sys2Proof.Tests

/-! Decoding: words written out bit by bit from the table of 30 R106 and the formats of 30 R100. -/

theorem test_decode_wridx : decodeCommand [0b0000000100100010#16] = .command (.wridx 0x22#8) 1 := by decide

theorem test_decode_wrdat :
    decodeCommand [0b0000001000000000#16, 0b0001000000011000#16] = .command (.wrdat 0x1018#16) 2 := by decide

theorem test_decode_setreg :
    decodeCommand [0b0000001111111111#16, 0b1111111111111111#16] = .command (.setreg 0xFF#8 0xFFFF#16) 2 := by decide

theorem test_decode_getreg : decodeCommand [0b0000010000000011#16] = .command (.getreg 3#8) 1 := by decide

theorem test_decode_setwin :
    decodeCommand [0b0001000000000000#16, 10#16, 20#16, 30#16, 40#16] =
      .command (.setwin 10#16 20#16 30#16 40#16) 5 := by decide

theorem test_decode_setaddr :
    decodeCommand [0b0001000100000000#16, 10#16, 30#16] = .command (.setaddr 10#16 30#16) 3 := by decide

theorem test_decode_pxstart : decodeCommand [0b0010000000000000#16] = .command .pxstart 1 := by decide

theorem test_decode_pxword : decodeCommand [0b0010000100000000#16, 0xF800#16] = .command (.pxword 0xF800#16) 2 := by decide

theorem test_decode_pxend : decodeCommand [0b0010001000000000#16] = .command .pxend 1 := by decide

/-- V-DEC-10: the low half of each 32-bit operand comes first. -/
theorem test_decode_wrpix :
    decodeCommand [0b0010001100000000#16, 0x0100#16, 0x2000#16, 0x0003#16, 0x0000#16] =
      .command (.wrpix 0x20000100#32 3#32) 5 := by decide

theorem test_decode_dmawr :
    decodeCommand [0b0010010000000000#16, 0x0200#16, 0x2000#16, 0x0004#16, 0x0000#16] =
      .command (.dmawr 0x20000200#32 4#32) 5 := by decide

theorem test_decode_fill : decodeCommand [0b0011000000000000#16, 0x0000#16] = .command (.fill 0#16) 2 := by decide

theorem test_decode_fillrect :
    decodeCommand [0b0011000100000000#16, 218#16, 174#16, 2#16, 3#16, 0x1234#16] =
      .command (.fillrect 218#16 174#16 2#16 3#16 0x1234#16) 6 := by decide

/-- V-DEC-9. -/
theorem test_decode_blit :
    decodeCommand [0b0011001000000000#16, 8#16, 0#16, 8#16, 8#16, 0x1000#16, 0x2000#16] =
      .command (.blit 8#16 0#16 8#16 8#16 0x20001000#32) 7 := by decide

theorem test_decode_init : decodeCommand [0b0100000000000000#16] = .command .init 1 := by decide

/-- V-DEC-7. -/
theorem test_decode_setcb :
    decodeCommand [0b0100000100000001#16, 0x0301#16, 0x1000#16] = .command (.setcb 1#8 0x10000301#32) 3 := by decide

theorem test_decode_waitcb : decodeCommand [0b0100001000000000#16] = .command .waitcb 1 := by decide

theorem test_decode_wIdx : decodeWire .sent 0b00000000000100010#17 = some (.wIdx 0x22#8) := by decide

theorem test_decode_wDat : decodeWire .sent 0b11111100000000000#17 = some (.wDat 0xF800#16) := by decide

theorem test_decode_wRd : decodeWire .received 0b11001001000100101#17 = some (.wRd 0x9225#16) := by decide

/-- V-DEC-3 and V-DEC-5: a reserved byte that is not zero, and undefined opcodes. -/
theorem test_decode_illegal :
    decodeCommand [0x0201#16, 0x1018#16] = .illegal .reservedByte 1 ∧
      [0x0000#16, 0x0500#16, 0x1200#16, 0x2500#16, 0x3300#16, 0x4300#16, 0xFF00#16].all
        (fun c => decodeCommand [c] == .illegal .undefinedOpcode 1) = true := by decide

/-- V-DEC-6: a command cut off by the end of the stream consumes what remains. -/
theorem test_decode_truncated : decodeCommand [0x1000#16, 0x000A#16] = .illegal .truncated 2 := by decide

theorem test_decode_wire_rejects :
    decodeWire .sent 0x00100#17 = none ∧ decodeWire .received 0x09225#17 = none := by decide

/-! WellFormed refuses an ill-formed term for each of its checks. -/

theorem smoke_empty_command : (Code.command []).wellFormed = false := by decide

theorem smoke_undefined_opcode : (Code.command [0x0500#16]).wellFormed = false := by decide

theorem smoke_reserved_byte : (Code.command [0x0201#16, 0#16]).wellFormed = false := by decide

theorem smoke_wrong_length :
    (Code.command [0x1000#16, 0#16, 1#16, 0#16]).wellFormed = false ∧
      (Code.command [0x2000#16, 0#16]).wellFormed = false := by decide

theorem smoke_wire_upper_byte : (Code.wire .sent 0x00100#17).wellFormed = false := by decide

theorem smoke_wire_received_low : (Code.wire .received 0x00022#17).wellFormed = false := by decide

theorem smoke_standard_config : Config.standard.wellFormed = true := by decide +kernel

theorem smoke_config_fifo : { Config.standard with fifoDepth := 0 }.wellFormed = false := by decide +kernel

/-- An index used twice, an index outside each of the ranges of 10_state R40, and a gamma table of nine. -/
theorem smoke_reg_map :
    { RegMap.standard with entryMode := 0x01#8 }.wellFormed = false ∧
    { RegMap.standard with oscCtrl := 0x1F#8 }.wellFormed = false ∧
    { RegMap.standard with powerCtrl5 := 0x16#8 }.wellFormed = false ∧
    { RegMap.standard with gramRw := 0x23#8 }.wellFormed = false ∧
    { RegMap.standard with gateScan := 0x3A#8 }.wellFormed = false ∧
    { RegMap.standard with gamma := RegMap.standard.gamma.take 9 ++ [0x5A#8] }.wellFormed = false ∧
    { RegMap.standard with gamma := RegMap.standard.gamma.take 9 }.wellFormed = false := by decide +kernel

/-- The tables of 41 R152: a power register missing, a zero power value, a category out of order, an entry mode or a
bound that is not D0's, a gamma table of nine. -/
theorem smoke_init_tables :
    { InitTables.standard with pwrOn := InitTables.standard.pwrOn.take 4 }.wellFormed RegMap.standard = false ∧
    { InitTables.standard with pwrOn := (0x11#8, 0#16) :: InitTables.standard.pwrOn.drop 1 }.wellFormed
      RegMap.standard = false ∧
    { InitTables.standard with cfg := InitTables.standard.cfg.reverse }.wellFormed RegMap.standard = false ∧
    { InitTables.standard with
      cfg := InitTables.standard.cfg.map (fun (p : Byte × Word) => if p.1 = 0x03#8 then (p.1, 0x1030#16) else p) }.wellFormed
        RegMap.standard = false ∧
    { InitTables.standard with
      cfg := InitTables.standard.cfg.map (fun (p : Byte × Word) => if p.1 = 0x36#8 then (p.1, 0x00B0#16) else p) }.wellFormed
        RegMap.standard = false ∧
    { InitTables.standard with gamma := InitTables.standard.gamma.take 9 }.wellFormed RegMap.standard = false := by
  decide +kernel

/-! Single steps, against the vectors of 95_test_vectors. -/

/-- The state after the HOST's turn runs the command `words` in `s`. -/
def after (words : List Word) (s : State) : Option State :=
  match step { s with prog := words, cpc := 0, turns := [.host] } with
  | .next t => some t
  | .fault _ => none
  | .refused _ => none

/-- The trace and the status word after the command. -/
def seen (words : List Word) (s : State) : Option (List Event × DWord) :=
  (after words s).map (fun t => (t.trace, t.readStatus .s0))

/-- The reset state of a panel with read support and the genuine part. -/
def readable : State :=
  State.resetWith { Config.standard with readSupport := true, panelGenuine := true }

/-- A state with a frame open (V-PX-1). -/
def framed : State :=
  { State.reset with cs := .low, rs := .high, frameOpen := true, panel := { Panel.unknown with ir := some 0x22#8 } }

/-- The descriptor is configured and a callback bound. -/
def configured : State :=
  { State.reset with
    tdCfg := true
    tdWidth := 16
    tdDst := 1
    tdDreq := 2
    cbValid := true
    cbFn := 0x10000301#32 }

/-- A transfer of two elements is armed (V-DMA-5), with its elements in host memory. -/
def armed : State :=
  { configured with
    cs := .low
    rs := .high
    dstate := .armed
    tdSrc := 0x20000200#32
    tdCount := 2#32
    tdRem := 2#32
    mem := [(0x20000200, 0xAA#8), (0x20000201, 0xAA#8), (0x20000202, 0x55#8), (0x20000203, 0x55#8)]
    panel := { Panel.unknown with ir := some 0x22#8 }
    traceRev := [.dmaStart 0x20000200#32 2#32] }

/-- The state after one turn of the agent `turn`. -/
def turned (turn : Turn) (s : State) : Option State :=
  match step { s with turns := [turn] } with
  | .next t => some t
  | .fault _ => none
  | .refused _ => none

/-- V-RP-1. -/
theorem test_wridx :
    seen [0x0122#16] State.reset =
      some ([.pin .rs .low, .pin .cs .low, .tx .low 0x0022#16, .pin .cs .high], 0x00000005#32) := by decide

/-- V-RP-2. -/
theorem test_wrdat :
    seen [0x0200#16, 0x1018#16] State.reset =
      some ([.pin .rs .high, .pin .cs .low, .tx .high 0x1018#16, .pin .cs .high], 0x00000007#32) := by decide

/-- V-RP-3 and program P-1: the eight events, and the far end's register. -/
theorem test_setreg :
    seen [0x0303#16, 0x1018#16] State.reset =
      some ([.pin .rs .low, .pin .cs .low, .tx .low 0x0003#16, .pin .cs .high, .pin .rs .high, .pin .cs .low,
        .tx .high 0x1018#16, .pin .cs .high], 0x00000007#32) ∧
    (after [0x0303#16, 0x1018#16] State.reset).map (fun t => (t.cpc, t.panel.readReg 0x03#8, t.panel.ir)) =
      some (2, some 0x1018#16, some 0x03#8) := by decide

/-- V-RP-7. -/
theorem test_getreg :
    (after [0x0400#16] readable).map (fun t => (t.trace, t.result, t.readStatus .s0)) =
      some ([.pin .rs .low, .pin .cs .low, .tx .low 0x0000#16, .pin .cs .high, .pin .rs .high, .pin .cs .low,
        .rx .high 0x9225#16, .pin .cs .high], 0x00009225#32, 0x00000007#32) := by decide

/-- V-RP-8. -/
theorem test_getreg_unsupported :
    (after [0x0400#16] State.reset).map (fun t => (t.trace, t.errCode, t.result, t.readStatus .s0)) =
      some ([.violation .unsupported], 2#8, 0#32, 0x00000805#32) := by decide

/-- V-WIN-1. -/
theorem test_setwin :
    (after [0x1000#16, 0x000A#16, 0x0014#16, 0x001E#16, 0x0028#16] State.reset).map
        (fun t => (t.trace, t.panel.win t.cfg, t.panel.cur)) =
      some (tableEvents [(0x37#8, 0x000A#16), (0x36#8, 0x0014#16), (0x39#8, 0x001E#16), (0x38#8, 0x0028#16),
        (0x20#8, 0x000A#16), (0x21#8, 0x001E#16)], some ⟨10#16, 20#16, 30#16, 40#16⟩, some ⟨10#16, 30#16⟩) := by
  decide

/-- V-WIN-4 to V-WIN-8. -/
theorem test_setwin_invalid :
    [[0#16, 176#16, 0#16, 219#16], [0#16, 175#16, 0#16, 220#16], [5#16, 5#16, 0#16, 9#16], [9#16, 5#16, 0#16, 9#16],
        [0#16, 0xFFFF#16, 0#16, 1#16]].all
      (fun w => seen (0x1000#16 :: w) State.reset == some ([.violation .window], 0x00000805#32)) = true := by decide

/-- V-WIN-10: no bounds check, and the cursor off the screen. -/
theorem test_setaddr :
    (after [0x1100#16, 0x01F4#16, 0x01F4#16] State.reset).map (fun t => (t.trace.length, t.err, t.panel.cur)) =
      some (16, false, some ⟨500#16, 500#16⟩) := by decide

/-- V-PX-1. -/
theorem test_pxstart :
    seen [0x2000#16] State.reset =
      some ([.pin .rs .low, .pin .cs .low, .tx .low 0x0022#16, .pin .cs .high, .pin .rs .high, .pin .cs .low],
        0x00000026#32) := by decide

/-- V-PX-7. -/
theorem test_pxstart_twice : seen [0x2000#16] framed = some ([.violation .frame], 0x00000826#32) := by decide

/-- Program P-3: the status word stays 0x26. -/
theorem test_pxword : seen [0x2100#16, 0xAAAA#16] framed = some ([.tx .high 0xAAAA#16], 0x00000026#32) := by decide

/-- V-PX-5. -/
theorem test_pxword_no_frame :
    seen [0x2100#16, 0x1234#16] State.reset = some ([.violation .frame], 0x00000805#32) := by decide

/-- Program P-3. -/
theorem test_pxend : seen [0x2200#16] framed = some ([.pin .cs .high], 0x00000007#32) := by decide

/-- V-PX-6. -/
theorem test_pxend_no_frame : seen [0x2200#16] State.reset = some ([.violation .frame], 0x00000805#32) := by decide

/-- V-PX-4, with its first two elements. -/
theorem test_wrpix :
    (after [0x2300#16, 0x0100#16, 0x2000#16, 0x0002#16, 0x0000#16]
        { State.reset with mem := [(0x20000101, 0xF8#8), (0x20000102, 0xE0#8), (0x20000103, 0x07#8)] }).map
        (fun t => t.trace.drop 6) =
      some [.memRead 0x20000100 0xF800#16, .tx .high 0xF800#16, .memRead 0x20000102 0x07E0#16, .tx .high 0x07E0#16,
        .pin .cs .high] := by decide

/-- V-PX-12 and V-PX-13: the last element of host memory. -/
theorem test_wrpix_top :
    (after [0x2300#16, 0xFFFE#16, 0xFFFF#16, 0x0001#16, 0x0000#16] State.reset).map (fun t => t.err) = some false ∧
    seen [0x2300#16, 0xFFFE#16, 0xFFFF#16, 0x0002#16, 0x0000#16] State.reset =
      some ([.violation .buffer], 0x00000805#32) := by decide

/-- V-DMA-5, the command. -/
theorem test_dmawr :
    (after [0x2400#16, 0x0200#16, 0x2000#16, 0x0002#16, 0x0000#16] { configured with bl := .on }).map
        (fun t => (t.trace, t.readStatus .s0, t.readStatus .s5)) =
      some ([.pin .rs .low, .pin .cs .low, .tx .low 0x0022#16, .pin .cs .high, .pin .rs .high, .pin .cs .low,
        .dmaStart 0x20000200#32 2#32], 0x0000068E#32, 2#32) := by decide

/-- V-DMA-1 and V-PRI-2: the order of the checks. -/
theorem test_dmawr_checks :
    (after [0x2400#16, 0x0200#16, 0x2000#16, 0x0002#16, 0x0000#16] State.reset).map (fun t => t.errCode) = some 5#8 ∧
    (after [0x2400#16, 0#16, 0#16, 0#16, 0#16] armed).map (fun t => t.errCode) = some 3#8 := by decide

/-- FILL is its FILLRECT (V-FILL), and it is rejected during a transfer. -/
theorem test_fill_busy :
    (after [0x3000#16, 0x0000#16] armed).map (fun t => (t.errCode, t.traceRev.head?)) =
      some (3#8, some (.violation .busy)) := by decide

/-- V-FR-2. -/
theorem test_fillrect :
    (after [0x3100#16, 218#16, 174#16, 2#16, 2#16, 0x1234#16] State.reset).map (fun t => t.trace) =
      some (tableEvents [(0x37#8, 0x00AE#16), (0x36#8, 0x00AF#16), (0x39#8, 0#16), (0x38#8, 0x0001#16),
          (0x20#8, 0x00AE#16), (0x21#8, 0#16)] ++
        [.pin .rs .low, .pin .cs .low, .tx .low 0x0022#16, .pin .cs .high, .pin .rs .high, .pin .cs .low,
          .tx .high 0x1234#16, .tx .high 0x1234#16, .tx .high 0x1234#16, .tx .high 0x1234#16, .pin .cs .high]) := by
  decide

/-- The window and the validity of V-RECT. -/
theorem test_rectangles :
    rectWindow 8#16 0#16 8#16 8#16 = ⟨0#16, 7#16, 204#16, 211#16⟩ ∧
    rectWindow 100#16 50#16 2#16 3#16 = ⟨50#16, 52#16, 118#16, 119#16⟩ ∧
    validRect 218#16 174#16 2#16 2#16 = true ∧ validRect 213#16 0#16 8#16 8#16 = false ∧
    validRect 0#16 169#16 8#16 8#16 = false ∧ validRect 0#16 0#16 1#16 8#16 = false ∧
    validRect 0#16 0#16 0xFFFF#16 2#16 = false := by decide

/-- V-BL-1, its window and its first element. -/
theorem test_blit :
    (after [0x3200#16, 8#16, 0#16, 2#16, 2#16, 0x1000#16, 0x2000#16]
        { State.reset with mem := [(0x20001000, 0x34#8), (0x20001001, 0x12#8)] }).map
        (fun t => (t.panel.win t.cfg, (t.trace.drop 54).take 3)) =
      some (some ⟨0#16, 1#16, 210#16, 211#16⟩,
        [.memRead 0x20001000 0x1234#16, .tx .high 0x1234#16, .memRead 0x20001002 0x0000#16]) := by decide

/-- V-BL-2 to V-BL-4: the rectangle before the buffer. -/
theorem test_blit_checks :
    (after [0x3200#16, 0#16, 0#16, 1#16, 8#16, 0#16, 0#16] State.reset).map (fun t => t.errCode) = some 8#8 ∧
    (after [0x3200#16, 0#16, 0#16, 8#16, 8#16, 0#16, 0#16] State.reset).map (fun t => t.errCode) = some 7#8 ∧
    (after [0x3200#16, 0#16, 0#16, 8#16, 8#16, 0x1001#16, 0x2000#16] State.reset).map (fun t => t.errCode) =
      some 7#8 := by decide

/-- V-INIT: its 359 events, written out from the vector, and the state after. -/
theorem test_init :
    (after [0x4000#16] State.reset).map (fun t => t.trace) =
      some (List.flatten
        [[.pin .rst .high, .pin .cs .high, .pin .rs .low, .lamp .bl .off, .delay 1, .pin .rst .low, .delay 10,
            .pin .rst .high, .delay 50],
          tableEvents [(0x10#8, 0#16), (0x11#8, 0#16), (0x12#8, 0#16), (0x13#8, 0#16), (0x14#8, 0#16)], [.delay 40],
          tableEvents [(0x11#8, 0x0018#16), (0x12#8, 0x6121#16), (0x13#8, 0x006F#16), (0x14#8, 0x495F#16),
            (0x10#8, 0x0800#16)], [.delay 10],
          tableEvents [(0x11#8, 0x103B#16)], [.delay 50],
          tableEvents [(0x01#8, 0x011C#16), (0x02#8, 0x0100#16), (0x03#8, 0x1018#16), (0x07#8, 0x0000#16),
            (0x08#8, 0x0808#16), (0x0B#8, 0x1100#16), (0x0C#8, 0x0000#16), (0x0F#8, 0x0D01#16), (0x15#8, 0x0020#16)],
          tableEvents [(0x20#8, 0x0000#16), (0x21#8, 0x0000#16), (0x30#8, 0x0000#16), (0x31#8, 0x00DB#16),
            (0x32#8, 0x0000#16), (0x33#8, 0x0000#16), (0x34#8, 0x00DB#16), (0x35#8, 0x0000#16)],
          tableEvents [(0x36#8, 0x00AF#16), (0x37#8, 0x0000#16), (0x38#8, 0x00DB#16), (0x39#8, 0x0000#16)],
          tableEvents [(0x50#8, 0x0000#16), (0x51#8, 0x0808#16), (0x52#8, 0x080A#16), (0x53#8, 0x000A#16),
            (0x54#8, 0x0A08#16), (0x55#8, 0x0808#16), (0x56#8, 0x0000#16), (0x57#8, 0x0A00#16), (0x58#8, 0x0710#16),
            (0x59#8, 0x0710#16)], [.delay 50],
          tableEvents [(0x07#8, 0x1017#16)], [.delay 50, .lamp .bl .on]]) ∧
    (after [0x4000#16] State.reset).map (fun t => (t.trace.length, t.readStatus .s0, t.panel.cur)) =
      some (359, 0x0000040F#32, some ⟨0#16, 0#16⟩) ∧
    (after [0x4000#16] State.reset).map (fun t => (t.panel.win t.cfg, t.panel.readReg 0x03#8, t.panel.ir)) =
      some (some ⟨0#16, 175#16, 0#16, 219#16⟩, some 0x1018#16, some 0x07#8) := by decide +kernel

/-- V-INIT-2, V-INIT-3 and V-ID. -/
theorem test_init_variants :
    (after [0x4000#16] (State.resetWith { Config.standard with hasLedPin := true })).map
        (fun t => (t.trace.length, t.readStatus .s0)) = some (361, 0x0000041F#32) ∧
    (after [0x4000#16] readable).map (fun t => (t.trace.length, t.result, t.panel.ir)) =
      some (367, 0#32, some 0x00#8) ∧
    idDifference 0x9226#16 = 0xFFFFFFFF#32 ∧ idDifference 0x0000#16 = 0x00009225#32 ∧
    idDifference 0xFFFF#16 = 0xFFFF9226#32 := by decide +kernel

/-- V-DMA-4 and program P-4's SETCB. -/
theorem test_setcb :
    (after [0x4102#16, 0x0301#16, 0x1000#16] State.reset).map (fun t => t.errCode) = some 6#8 ∧
    (after [0x4101#16, 0x0301#16, 0x1000#16] State.reset).map (fun t => (t.cbValid, t.cbLine, t.cbFn, t.trace)) =
      some (true, 1#8, 0x10000301#32, []) := by decide

/-- V-DMA-8 and V-DMA-9: WAITCB holds while the transfer runs, and returns at once when there is none. -/
theorem test_waitcb :
    (after [0x4200#16] armed).map (fun t => (t.wait, t.cpc, t.traceRev.length)) = some (.holding, 0, 1) ∧
    (after [0x4200#16] State.reset).map (fun t => (t.cpc, t.trace)) = some (1, []) := by decide

/-- A WAITCB that holds is lifted by the handler, and then returns with no check and no event, though the callback has
opened a frame (43 R209, 60 R245). -/
theorem test_waitcb_lifted :
    (turned .irqHandler { armed with tdRem := 0#32, irqPending := true, wait := .holding }).map (fun t => t.wait) =
      some .lifted ∧
    (turned .host { framed with prog := [0x4200#16], wait := .lifted }).map
        (fun t => (t.wait, t.cpc, t.err, t.traceRev == framed.traceRev)) = some (.none, 1, false, true) := by decide

/-- WAITCB from the callback holds like the stream's (43 R209, 60 R251), until it is lifted. -/
theorem test_waitcb_callback :
    (turned (.callback [0x4200#16, 0x2200#16]) armed).map (fun t => (t.cbWait, t.cbProg, t.cpc, t.traceRev.length)) =
      some (.holding, [0x4200#16, 0x2200#16], 0, 1) ∧
    (turned (.callback []) { State.reset with cbProg := [0x4200#16, 0x2200#16], cbWait := .lifted }).map
        (fun t => (t.cbWait, t.cbProg, t.trace)) = some (.none, [0x2200#16], []) := by decide

/-- Program P-5's agents: DMA, SHIFTER and IRQ turns of V-DMA-5. -/
theorem test_agents :
    (turned .dmaPush armed).map (fun t => (t.fifo, t.tdRem, t.traceRev.head?)) =
      some ([0xAAAA#16], 1#32, some (.memRead 0x20000200 0xAAAA#16)) ∧
    (turned .shift { armed with fifo := [0xAAAA#16], tdRem := 1#32 }).map (fun t => (t.fifo, t.traceRev.head?)) =
      some ([], some (.tx .high 0xAAAA#16)) := by decide

theorem test_irq_agents :
    (turned .dmaDone { armed with tdRem := 0#32 }).map (fun t => (t.irqPending, t.traceRev.head?)) =
      some (true, some (.irqRaise 0#8)) ∧
    (turned .irqHandler { armed with tdRem := 0#32, irqPending := true }).map
        (fun t => (t.cs, t.dstate, t.traceRev.take 3)) =
      some (.high, .idle, [.callback 0x10000301#32, .irqClear 0#8, .pin .cs .high]) := by decide

/-- The wire items, each as one word on the wire. -/
theorem test_wire_items :
    (match exec (.wIdx 0x22#8) { State.reset with cs := .low } with
      | .next t => some (t.trace, t.panel.ir) | .fault _ => none | .refused _ => none) =
      some ([.tx .low 0x0022#16], some 0x22#8) ∧
    (match exec (.wRd 0x9225#16) { readable with cs := .low, rs := .high } with
      | .next t => some t.trace | .fault _ => none | .refused _ => none) = some [.rx .high 0x9225#16] := by decide

/-- A wire item whose conditions fail stops by name (30 R100; 00_scope R12). -/
theorem test_wire_items_stop :
    exec (.wDat 0#16) { State.reset with rs := .high } = .fault .wordWhileDeselected ∧
    exec (.wDat 0#16) { State.reset with cs := .low } = .fault .wordAgainstRs ∧
    exec (.wRd 0#16) { State.reset with cs := .low, rs := .high } = .refused .noDataInLine :=
  ⟨rfl, rfl, rfl⟩

/-- V-RP-9: frames of three commands, and the latched index persists. -/
theorem test_frames :
    frames (indexFrameEvents 0x07#8 ++ dataFrameEvents 0x0000#16 ++ dataFrameEvents 0x1017#16) =
      [⟨.low, [.sent 0x0007#16]⟩, ⟨.high, [.sent 0x0000#16]⟩, ⟨.high, [.sent 0x1017#16]⟩] := by decide

/-- Bit 15 is the first on the wire (20_memory R70). -/
theorem test_wire_bits : (wireBits 0x8001#16).head? = some true ∧ (wireBits 0x8000#16).getLast? = some false := by decide

/-- The far end's lamp output level is the parameter's (10_state R31). -/
theorem test_lamp_level :
    lampLevel Config.standard .on = .high ∧ lampLevel { Config.standard with blOnLevel := .low } .off = .high := by decide

/-- A word placed to run next decodes to its instruction, and the step runs it. -/
theorem test_placed_word :
    decodeTableWord 16 0x4200 = some .waitcb ∧ decodeTableWord 24 0x10000 = some (.wDat 0#16) ∧
    decodeTableWord 24 0x30000 = some (.wRd 0#16) ∧
    (match step (State.reset.withFetchWord 16 0x0122) with
      | .next t => some t.trace | .fault _ => none | .refused _ => none) =
      some [.pin .rs .low, .pin .cs .low, .tx .low 0x0022#16, .pin .cs .high] := by decide

theorem test_placed_items :
    (match step (State.reset.withFetchWord 24 0x00022) with
      | .next t => some t.trace | .fault _ => none | .refused _ => none) = some [.tx .low 0x0022#16] ∧
    (match step (State.reset.withFetchWord 24 0x30005) with
      | .next t => some t.trace | .fault _ => none | .refused _ => none) = some [.rx .high 0x0005#16] := by decide

/-! Witnesses: for every statement with hypotheses, a state and operands that meet them; for a statement with several
clauses, one for each, at a boundary of its range. -/

theorem ready_reset : Ready State.reset :=
  ⟨rfl, rfl, rfl⟩

theorem inv_reset : EngineInv State.reset where
  quiescent := Or.inl rfl
  selected_iff := by decide
  exclusive := by decide
  selected_pixels := by decide
  idle_drained := by decide
  armed_ready := by decide
  no_error := by decide
  error_code := by decide
  cpc_le := by decide
  thread_waits := fun h => absurd rfl h
  thread_holds := nofun
  callback_waits := fun h => absurd rfl h
  callback_holds := nofun
  fifo_fits := by decide
  rem_le := by decide
  pending_drained := by decide
  configured := by decide
  armed_buffer := by decide
  bound_line := by decide
  rst_high := rfl
  led_follows := rfl
  mem_wf := Memory.wf_nil
  panel_wf := Panel.canonical_unknown

/-- An armed transfer with `words` waiting in the FIFO, `rem` elements left, under the schedule given. -/
def transferring (words : List Word) (rem : DWord) (pending : Bool) (turns cycle : List Turn) : State :=
  { armed with fifo := words, tdRem := rem, irqPending := pending, turns := turns, cycle := cycle }

theorem canonical_latched : Panel.Canonical { Panel.unknown with ir := some 0x22#8 } :=
  Panel.canonical_of_lists Panel.canonical_unknown rfl rfl

theorem inv_transferring {words : List Word} {rem : DWord} {pending : Bool} (hw : words.length ≤ 8)
    (hr : rem.toNat ≤ 2) (hp : pending = true → rem = 0#32 ∧ words = []) (turns cycle : List Turn) :
    EngineInv (transferring words rem pending turns cycle) where
  quiescent := Or.inr rfl
  selected_iff := ⟨fun _ => Or.inr rfl, fun _ => rfl⟩
  exclusive := by intro h; cases h
  selected_pixels := fun _ => ⟨rfl, rfl⟩
  idle_drained := by intro h; cases h
  armed_ready := fun _ => ⟨rfl, rfl⟩
  no_error := fun _ => rfl
  error_code := by intro h; cases h
  cpc_le := Nat.le_refl 0
  thread_waits := fun h => absurd rfl h
  thread_holds := fun _ => rfl
  callback_waits := fun h => absurd rfl h
  callback_holds := fun _ => rfl
  fifo_fits := hw
  rem_le := hr
  pending_drained := fun h => ⟨rfl, hp h⟩
  configured := fun _ => ⟨rfl, rfl, rfl⟩
  armed_buffer := fun _ => show validBuffer 0x20000200#32 2 = true by decide
  bound_line := fun _ => show validLine Config.standard 0#8 = true by decide
  rst_high := rfl
  led_follows := rfl
  mem_wf := by
    show Memory.wf [(0x20000200, 0xAA#8), (0x20000201, 0xAA#8), (0x20000202, 0x55#8), (0x20000203, 0x55#8)]
    decide
  panel_wf := canonical_latched

theorem inv_armed (turns cycle : List Turn) : EngineInv (transferring [] 2#32 false turns cycle) :=
  inv_transferring (words := []) (rem := 2#32) (pending := false) (by decide) (by decide) nofun turns cycle

/-- `EncodeUndoesDecode`: a command and both kinds of wire item decode. -/
theorem witness_EncodeUndoesDecode :
    decode (.command [0x4101#16, 0x0301#16, 0x1000#16]) = some (.setcb 1#8 0x10000301#32) ∧
    decode (.wire .sent 0x000FF#17) = some (.wIdx 0xFF#8) ∧ decode (.wire .received 0x1FFFF#17) = some (.wRd 0xFFFF#16) ∧
    decodeCommand [0x2000#16, 0x2200#16] = .command .pxstart 1 := by decide

/-- `DecodeUndoesEncode`: a command followed by another. -/
theorem witness_DecodeUndoesEncode : (Instr.wrpix 1#32 2#32).isCommand = true := by decide

/-- `LengthFromFirstWord`: no row; a row, one word short; a row, exactly long enough. -/
theorem witness_LengthFromFirstWord :
    CommandRow.select 0x3300#16 = none ∧ CommandRow.select 0x2001#16 = none ∧
    CommandRow.select 0x3200#16 = some ⟨0xFFFF#16, 0x3200#16, 7⟩ ∧
    CommandRow.select 0x41FF#16 = some ⟨0xFF00#16, 0x4100#16, 3⟩ ∧
    ∃ (s : State) (turns : List Turn), s.turns = .host :: turns ∧ s.wait = .none ∧
      s.prog.drop s.cpc = [0x41FF#16, 0x0301#16] :=
  ⟨by decide, by decide, by decide, by decide, { State.reset with prog := [0x41FF#16, 0x0301#16], turns := [.host] }, [],
    rfl, rfl, rfl⟩

/-- `StepTakesNextTurn`: the schedule's first turn, the round's first, and neither. -/
theorem witness_StepTakesNextTurn :
    { State.reset with turns := [.shift] }.turns = [.shift] ∧
    (State.reset.turns = [] ∧ State.reset.cycle = .host :: [.dmaPush, .shift, .dmaDone, .irqHandler]) ∧
    { State.reset with cycle := [] }.cycle = [] := by decide

/-- `StepRunsDecodedCommand`: the HOST's command, WAITCB among them, and the end of the stream; the callback's command,
an illegal one of it, and none; a read in progress, and none. -/
theorem witness_StepRunsDecodedCommand :
    (∃ (s : State) (rest : List Turn) (i : Instr) (len : Nat), s.turns = .host :: rest ∧ s.wait = .none ∧
       decodeCommand (s.prog.drop s.cpc) = .command i len) ∧
    (∃ (s : State) (rest : List Turn) (len : Nat), s.turns = .host :: rest ∧ s.wait = .none ∧
      decodeCommand (s.prog.drop s.cpc) = .command .waitcb len ∧
      s.dstate ≠ .idle ∧ s.frameOpen = false) ∧
    (∃ (s : State) (rest : List Turn), s.turns = .host :: rest ∧ s.wait = .none ∧ s.prog.drop s.cpc = []) ∧
    (∃ (s : State) (rest : List Turn) (words : List Word) (i : Instr) (len : Nat), s.turns = .callback words :: rest ∧
      s.cbWait = .none ∧
      decodeCommand (s.cbProg ++ words) = .command i len) ∧
    (∃ (s : State) (rest : List Turn) (words : List Word) (why : Illegal) (len : Nat),
      s.turns = .callback words :: rest ∧
      s.cbWait = .none ∧ decodeCommand (s.cbProg ++ words) = .illegal why len) ∧
    (∃ (s : State) (rest : List Turn) (words : List Word), s.turns = .callback words :: rest ∧
      s.cbWait = .none ∧ s.cbProg ++ words = []) ∧
    (∃ (s : State) (rest : List Turn) (v : Word), s.turns = .panelDrives v :: rest ∧ s.cfg.readSupport = true ∧
      s.cs = .low ∧ s.rs = .high ∧ s.dstate = .idle ∧ s.frameOpen = false) ∧
    ∃ (s : State) (rest : List Turn) (v : Word), s.turns = .panelDrives v :: rest ∧ ¬(s.cfg.readSupport = true ∧
      s.cs = .low ∧ s.rs = .high ∧ s.dstate = .idle ∧ s.frameOpen = false) := by
  refine ⟨⟨{ State.reset with prog := [0x2000#16], turns := [.host] }, [], .pxstart, 1, rfl, rfl, rfl⟩,
    ⟨{ armed with prog := [0x4200#16], turns := [.host] }, [], 1, rfl, rfl, rfl, by decide, rfl⟩,
    ⟨{ State.reset with turns := [.host] }, [], rfl, rfl, rfl⟩,
    ⟨{ State.reset with cbProg := [0x4200#16], turns := [.callback [0x2200#16]] }, [], [0x2200#16], .waitcb, 1, rfl, rfl,
      rfl⟩,
    ⟨{ State.reset with turns := [.callback [0x2300#16]] }, [], [0x2300#16], .truncated, 1, rfl, rfl, rfl⟩,
    ⟨{ State.reset with turns := [.callback []] }, [], [], rfl, rfl, rfl⟩,
    ⟨{ readable with cs := .low, rs := .high, turns := [.panelDrives 5#16] }, [], 5#16, rfl, rfl, rfl, rfl, rfl, rfl⟩,
    ⟨{ readable with turns := [.panelDrives 5#16] }, [], 5#16, rfl, by decide⟩⟩

theorem witness_IllegalWordRejected :
    ∃ (s : State) (turns : List Turn) (c0 : Word) (rest : List Word), s.turns = .host :: turns ∧ s.wait = .none ∧
      s.prog.drop s.cpc = c0 :: rest ∧ CommandRow.select c0 = none :=
  ⟨{ State.reset with prog := [0x0201#16, 0x1018#16], turns := [.host] }, [], 0x0201#16, [0x1018#16], rfl, rfl, rfl, rfl⟩

/-- `RejectedUnlessIdle`, used by every ordinary command's statement: a transfer, and an open frame. -/
theorem witness_RejectedUnlessIdle : armed.dstate ≠ .idle ∧ framed.dstate = .idle ∧ framed.frameOpen = true := by decide

/-- `WridxRule`, `WrdatRule`, `SetregRule`, `PxstartRule`, `SetaddrRule`, `FillIsFullScreenRect`, `InitStages`: a ready
state; it is without read support. -/
theorem witness_ready : Ready State.reset ∧ State.reset.cfg.readSupport = false ∧ State.reset.cfg.wellFormed = true :=
  ⟨ready_reset, rfl, smoke_standard_config⟩

/-- `GetregRule`, `InitIdentification`: read support, with each of the rejections. -/
theorem witness_GetregRule :
    State.reset.cfg.readSupport = false ∧ (Ready readable ∧ readable.cfg.readSupport = true ∧
      readable.cfg.panelGenuine = true) ∧
    ({ readable with dstate := .armed }.cfg.readSupport = true ∧ { readable with dstate := .armed }.dstate ≠ .idle) ∧
    ({ readable with frameOpen := true }.dstate = .idle ∧ { readable with frameOpen := true }.frameOpen = true) :=
  ⟨rfl, ⟨⟨rfl, rfl, rfl⟩, rfl, rfl⟩, ⟨rfl, by decide⟩, ⟨rfl, rfl⟩⟩

/-- `IndexLatchAndResetPulse`: a data word of the soft-reset value to another register, and the magic to the GRAM
register. -/
theorem witness_IndexLatchAndResetPulse :
    ¬(0x27#8 = idxSoftReset ∧ softResetMagic = softResetMagic ∧ 0x27#8 ≠ Config.standard.idx.gramRw) ∧
    ¬(0x22#8 = idxSoftReset ∧ softResetMagic = softResetMagic ∧ 0x22#8 ≠ Config.standard.idx.gramRw) := by decide

/-- `DataWordWritesRegister`: no index latched; the soft-reset write; the same register with another word. -/
theorem witness_DataWordWritesRegister :
    Panel.unknown.ir = none ∧ idxSoftReset ≠ Config.standard.idx.gramRw ∧
    ¬(idxSoftReset = idxSoftReset ∧ 0x00CF#16 = softResetMagic) ∧
    ¬(Config.standard.idx.ramAddr1 = idxSoftReset ∧ softResetMagic = softResetMagic) := by decide

/-- `PixelWordWritesCell`: the last cell of the screen, with entry mode and window known or not; a cursor one past each
edge; no cursor. -/
theorem witness_PixelWordWritesCell :
    ∃ p q r n : Panel,
      (p.ir = some Config.standard.idx.gramRw ∧ p.cur = some ⟨175#16, 219#16⟩ ∧
        p.readReg Config.standard.idx.entryMode = some 0x1018#16 ∧
        p.win Config.standard = some ⟨0#16, 175#16, 0#16, 219#16⟩) ∧
      (n.ir = some Config.standard.idx.gramRw ∧ n.cur = some ⟨0#16, 0#16⟩ ∧ n.win Config.standard = none) ∧
      (q.ir = some Config.standard.idx.gramRw ∧ q.cur = some ⟨176#16, 0#16⟩) ∧
      (r.ir = some Config.standard.idx.gramRw ∧ r.cur = some ⟨0#16, 220#16⟩) :=
  ⟨⟨some 0x22#8, [(0x03, 0x1018#16), (0x36, 175#16), (0x37, 0#16), (0x38, 219#16), (0x39, 0#16)], [], some 175#16,
      some 219#16⟩,
    ⟨some 0x22#8, [], [], some 176#16, some 0#16⟩, ⟨some 0x22#8, [], [], some 0#16, some 220#16⟩,
    ⟨some 0x22#8, [], [], some 0#16, some 0#16⟩, by decide⟩

/-- `WireItemsRun`: CS low with RS low; RS high and read support, with no index, the GRAM's and another latched. -/
theorem witness_WireItemsRun :
    { State.reset with cs := .low }.rs = .low ∧ { readable with cs := .low, rs := .high }.cfg.readSupport = true ∧
    framed.cs = .low ∧ framed.rs = .high ∧ readable.panel.ir = none ∧ framed.panel.ir = some framed.cfg.idx.gramRw ∧
    { Panel.unknown with ir := some 0x21#8 }.ir ≠ some framed.cfg.idx.gramRw ∧
    { Panel.unknown with ir := some 0x21#8 }.ir ≠ none := by decide

/-- `InitConfiguresFarEnd`: a ready state with well-formed parameters, from which INIT answers. -/
theorem witness_InitConfiguresFarEnd :
    ∃ s t : State, Ready s ∧ s.cfg.wellFormed = true ∧ exec .init s = .next t :=
  ⟨State.reset, _, ready_reset, smoke_standard_config, rfl⟩

/-- `SetwinRule`, `NextPixelAtStartCorner`: the largest window, the smallest at the largest start, and one past each
bound. -/
theorem witness_SetwinRule :
    validWindow ⟨0#16, 175#16, 0#16, 219#16⟩ = true ∧ validWindow ⟨174#16, 175#16, 218#16, 219#16⟩ = true ∧
    validWindow ⟨0#16, 176#16, 0#16, 219#16⟩ = false ∧ validWindow ⟨0#16, 175#16, 0#16, 220#16⟩ = false ∧
    validWindow ⟨5#16, 5#16, 0#16, 9#16⟩ = false ∧ validWindow ⟨0#16, 9#16, 7#16, 7#16⟩ = false := by decide

/-- `FillrectRule`, `RectWindowRule`: the whole screen, the smallest rectangle at the far corner, and one past each
bound. -/
theorem witness_FillrectRule :
    validRect 0#16 0#16 220#16 176#16 = true ∧ validRect 218#16 174#16 2#16 2#16 = true ∧
    validRect 219#16 174#16 2#16 2#16 = false ∧ validRect 218#16 175#16 2#16 2#16 = false ∧
    validRect 218#16 174#16 1#16 2#16 = false ∧ validRect 218#16 174#16 2#16 1#16 = false := by decide

/-- A ready state with the candidate cursor step of 93 G5 and the entry mode known. -/
def paintable : State :=
  { State.resetWith { Config.standard with advance := .entryModeBits } with
    panel := { Panel.unknown with reg := [(0x03, 0x1018#16)] } }

theorem witness_FillrectPaintsWindow :
    ∃ (s : State) (x y w h color : Word) (t : State), Ready s ∧ s.cfg.wellFormed = true ∧ AdvanceCovers s.cfg.advance ∧
      s.panel.readReg s.cfg.idx.entryMode = some 0x1018#16 ∧ validRect x y w h = true ∧
      exec (.fillrect x y w h color) s = .next t :=
  ⟨paintable, 218#16, 174#16, 2#16, 2#16, 0x1234#16, _, ⟨rfl, rfl, rfl⟩, by decide +kernel, advanceCovers_entryModeBits,
    rfl, by decide, rfl⟩

theorem witness_BlitPlacesElements :
    ∃ (s : State) (x y w h : Word) (src : DWord) (t : State), Ready s ∧ s.cfg.wellFormed = true ∧ AdvanceCovers s.cfg.advance ∧
      s.panel.readReg s.cfg.idx.entryMode = some 0x1018#16 ∧ validRect x y w h = true ∧
      validBuffer src (w.toNat * h.toNat) = true ∧ exec (.blit x y w h src) s = .next t :=
  ⟨paintable, 218#16, 174#16, 2#16, 2#16, 0x20001000#32, _, ⟨rfl, rfl, rfl⟩, by decide +kernel,
    advanceCovers_entryModeBits, rfl, by decide, by decide, rfl⟩

/-- `BlitRule`, `WrpixRule`, `DmawrRule`: the last elements of host memory, one past them, an odd pointer, null, none. -/
theorem witness_WrpixRule :
    validBuffer 0xFFFFFFFE#32 1 = true ∧ validBuffer 0xFFFFFFFE#32 2 = false ∧ validBuffer 0x20000101#32 3 = false ∧
    validBuffer 0#32 3 = false ∧ validBuffer 0x20000100#32 0 = false ∧ validBuffer 0xFFFFFFF8#32 (2 * 2) = true := by decide

theorem witness_EngineIgnoresFarEnd :
    (∃ s t : State, s.cfg.readSupport = false ∧ exec .pxstart s = .next t) ∧
    ∃ s t : State, s.cfg.readSupport = true ∧ exec (.getreg 0#8) s = .next t :=
  ⟨⟨State.reset, _, rfl, rfl⟩, ⟨readable, _, rfl, rfl⟩⟩

/-- `PxendRule`: a ready state whose trace leaves CS high. -/
theorem witness_PxendRule : Ready State.reset ∧ (scanOf State.reset.traceRev).cs = .high := ⟨ready_reset, rfl⟩

/-- `PxwordRule`, `PxendRule`: an open frame; none; a transfer. -/
theorem witness_PxwordRule :
    (framed.dstate = .idle ∧ framed.frameOpen = true ∧ framed.fifo = [] ∧ framed.cs = .low ∧ framed.rs = .high) ∧
    (State.reset.dstate = .idle ∧ State.reset.frameOpen = false) ∧ armed.dstate ≠ .idle := by decide

/-- `DmawrRule`: each check fails alone, in the order of 60 R246; and all pass. -/
theorem witness_DmawrRule :
    (State.reset.tdCfg = false ∧ State.reset.frameOpen = false) ∧
    (configured.tdCfg = true ∧ validBuffer 0#32 2 = false) ∧
    ({ configured with cbValid := false }.tdCfg = true ∧ { configured with cbValid := false }.cbValid = false) ∧
    (Ready configured ∧ configured.tdCfg = true ∧ validBuffer 0x20000200#32 2 = true ∧ configured.cbValid = true) :=
  ⟨⟨rfl, rfl⟩, ⟨rfl, by decide⟩, ⟨rfl, rfl⟩, ⟨rfl, rfl, rfl⟩, rfl, by decide, rfl⟩

/-- `SetcbRule`: the last line of the set, and the first outside it. -/
theorem witness_SetcbRule : 1#8 ∈ State.reset.cfg.irqLines ∧ 2#8 ∉ State.reset.cfg.irqLines := by decide

/-- `WaitcbRule`: WAITCB comes next during a transfer, and with none, in both contexts; it holds; it is lifted, with a
frame that the callback opened; a frame open. -/
theorem witness_WaitcbRule :
    (∃ (s : State) (turns : List Turn) (rest : List Word), s.turns = .host :: turns ∧ s.wait = .none ∧
      s.prog.drop s.cpc = 0x4200#16 :: rest ∧ s.frameOpen = false ∧ s.dstate ≠ .idle) ∧
    (∃ (s : State) (turns : List Turn) (rest : List Word), s.turns = .host :: turns ∧ s.wait = .none ∧
      s.prog.drop s.cpc = 0x4200#16 :: rest ∧ s.frameOpen = false ∧ s.dstate = .idle) ∧
    (∃ (s : State) (turns : List Turn), s.turns = .host :: turns ∧ s.wait = .holding ∧ s.dstate ≠ .idle) ∧
    (∃ (s : State) (turns : List Turn), s.turns = .host :: turns ∧ s.wait = .lifted ∧ s.frameOpen = true) ∧
    (∃ (s : State) (turns : List Turn) (words rest : List Word), s.turns = .callback words :: turns ∧ s.cbWait = .none ∧
      s.cbProg ++ words = 0x4200#16 :: rest ∧ s.frameOpen = false ∧ s.dstate ≠ .idle) ∧
    (∃ (s : State) (turns : List Turn) (words rest : List Word), s.turns = .callback words :: turns ∧ s.cbWait = .none ∧
      s.cbProg ++ words = 0x4200#16 :: rest ∧ s.frameOpen = false ∧ s.dstate = .idle) ∧
    (∃ (s : State) (turns : List Turn) (words : List Word), s.turns = .callback words :: turns ∧ s.cbWait = .holding ∧
      s.dstate ≠ .idle) ∧
    (∃ (s : State) (turns : List Turn) (words : List Word), s.turns = .callback words :: turns ∧ s.cbWait = .lifted) ∧
    framed.frameOpen = true :=
  ⟨⟨{ armed with prog := [0x4200#16], turns := [.host] }, [], [], rfl, rfl, rfl, rfl, by decide⟩,
    ⟨{ State.reset with prog := [0x4200#16], turns := [.host] }, [], [], rfl, rfl, rfl, rfl, rfl⟩,
    ⟨{ armed with prog := [0x4200#16], turns := [.host], wait := .holding }, [], rfl, rfl, by decide⟩,
    ⟨{ framed with prog := [0x4200#16], turns := [.host], wait := .lifted }, [], rfl, rfl, rfl⟩,
    ⟨{ armed with cbProg := [0x4200#16], turns := [.callback [0x2200#16]] }, [], [0x2200#16], [0x2200#16], rfl, rfl, rfl,
      rfl, by decide⟩,
    ⟨{ State.reset with turns := [.callback [0x4200#16]] }, [], [0x4200#16], [], rfl, rfl, rfl, rfl, rfl⟩,
    ⟨{ armed with cbProg := [0x4200#16], turns := [.callback []], cbWait := .holding }, [], [], rfl, rfl, by decide⟩,
    ⟨{ armed with cbProg := [0x4200#16], turns := [.callback []], cbWait := .lifted }, [], [], rfl, rfl⟩, rfl⟩

/-- `DmaPushRule`: room for one word more, and none; no element left. -/
theorem witness_DmaPushRule :
    (∃ (s : State) (turns : List Turn), s.turns = .dmaPush :: turns ∧ s.dstate = .armed ∧ s.tdRem ≠ 0#32 ∧
      s.fifo.length < s.cfg.fifoDepth) ∧
    (∃ (s : State) (turns : List Turn), s.turns = .dmaPush :: turns ∧ s.dstate = .armed ∧ s.tdRem ≠ 0#32 ∧
      s.fifo.length = s.cfg.fifoDepth) ∧
    ∃ (s : State) (turns : List Turn), s.turns = .dmaPush :: turns ∧ s.tdRem = 0#32 :=
  ⟨⟨transferring (List.replicate 7 0#16) 1#32 false [.dmaPush] [], [], rfl, rfl, by decide, by decide⟩,
    ⟨transferring (List.replicate 8 0#16) 1#32 false [.dmaPush] [], [], rfl, rfl, by decide, rfl⟩,
    ⟨transferring [] 0#32 false [.dmaPush] [], [], rfl, rfl⟩⟩

theorem witness_ShiftRule :
    (∃ (s : State) (turns : List Turn) (v : Word) (rest : List Word), s.turns = .shift :: turns ∧ s.fifo = v :: rest ∧
      s.cs = .low ∧ s.rs = .high) ∧ ∃ (s : State) (turns : List Turn), s.turns = .shift :: turns ∧ s.fifo = [] :=
  ⟨⟨transferring [0xAAAA#16] 1#32 false [.shift] [], [], 0xAAAA#16, [], rfl, rfl, rfl, rfl⟩,
    ⟨transferring [] 2#32 false [.shift] [], [], rfl, rfl⟩⟩

theorem witness_DmaDoneRule :
    (∃ (s : State) (turns : List Turn), s.turns = .dmaDone :: turns ∧ s.dstate = .armed ∧ s.tdRem = 0#32 ∧ s.fifo = [] ∧
      s.irqPending = false) ∧
    ∃ (s : State) (turns : List Turn), s.turns = .dmaDone :: turns ∧
      ¬(s.dstate = .armed ∧ s.tdRem = 0#32 ∧ s.fifo = [] ∧ s.irqPending = false) :=
  ⟨⟨transferring [] 0#32 false [.dmaDone] [], [], rfl, rfl, rfl, rfl, rfl⟩,
    ⟨transferring [0#16] 0#32 false [.dmaDone] [], [], rfl, by decide⟩⟩

/-- `IrqHandlerRule`, `CallbackMayRearm`: a pending condition, in a state with the invariant; the handler answers. -/
theorem witness_CallbackMayRearm :
    ∃ (s t : State) (turns : List Turn) (src n : DWord), EngineInv s ∧ s.irqPending = true ∧
      s.turns = .irqHandler :: turns ∧ step s = .next t ∧ validBuffer src n.toNat = true :=
  ⟨transferring [] 0#32 true [.irqHandler] [], _, [], 0x20000300#32, 1#32,
    inv_transferring (by decide) (by decide) (fun _ => ⟨rfl, rfl⟩) _ _, rfl, rfl, rfl, by decide⟩

theorem witness_HostStoreRule :
    ∃ (s : State) (turns : List Turn) (elem : BitVec 31) (v : Word), s.turns = .hostStore elem v :: turns :=
  ⟨{ State.reset with turns := [.hostStore 0x7FFFFFFF#31 0xFFFF#16] }, [], 0x7FFFFFFF#31, 0xFFFF#16, rfl⟩

/-- `RejectedWithoutEffect`, `RaisesOnlyItsRow`, `FirstErrorKept`, `InputsUntouched`, `OnlyNamedWriters`: an
instruction that raises, one that does not, and a step with `err` set. -/
theorem witness_RaisesOnlyItsRow :
    (∃ (i : Instr) (s t : State) (v : Violation), exec i s = .next t ∧ t.traceRev = .violation v :: s.traceRev) ∧
    (∃ (i : Instr) (s t : State), exec i s = .next t ∧ t.err = false) ∧ ∃ s t : State, step s = .next t ∧ s.err = true :=
  ⟨⟨.pxend, State.reset, _, .frame, rfl, rfl⟩, ⟨.pxstart, State.reset, _, rfl, rfl⟩,
    ⟨{ State.reset with err := true, errCode := 8#8 }, _, rfl, rfl⟩⟩

/-- `AdmissionChecks`: the feature gate, and each of the four clauses. -/
theorem witness_AdmissionChecks :
    State.reset.cfg.readSupport = false ∧
    (Instr.waitcb.isCommand = true ∧ framed.frameOpen = true) ∧ ((Instr.setcb 9#8 0#32).isCommand = true ∧
      armed.dstate ≠ .idle) ∧
    ((∀ w, Instr.pxstart ≠ .pxword w) ∧ Instr.pxstart ≠ .pxend ∧ framed.dstate = .idle) ∧
    (State.reset.dstate = .idle ∧ State.reset.frameOpen = false) ∧
    (∀ a, Instr.pxstart ≠ .getreg a ∨ State.reset.cfg.readSupport = true) :=
  ⟨rfl, by decide, by decide, ⟨nofun, by decide, rfl⟩, by decide, fun _ => Or.inl nofun⟩

/-- `BindingAndDescriptorStable`: a step during a transfer, with a binding and a configured descriptor. -/
theorem witness_BindingAndDescriptorStable :
    ∃ s t : State, step s = .next t ∧ s.dstate = .armed ∧ s.cbValid = true ∧ s.tdCfg = true :=
  ⟨transferring [] 2#32 false [.dmaPush] [], _, rfl, rfl, rfl, rfl⟩

theorem witness_InvHoldsAtReset : Memory.wf [(0x20000200, 0xAA#8)] := by decide

/-- `StepKeepsInv`, `StepNeverStops`, `RunsNeverStop`, `StalledTransferStays`: states with the invariant, idle and
armed, and their steps. -/
theorem witness_StepKeepsInv :
    (∃ s t : State, EngineInv s ∧ step s = .next t) ∧
    (∃ (s t : State) (turns : List Turn), EngineInv s ∧ s.dstate = .armed ∧ s.turns = .host :: turns ∧ step s = .next t) ∧
    (∃ (s t : State) (words : List Word) (turns : List Turn), EngineInv s ∧ s.dstate = .armed ∧
      s.turns = .callback words :: turns ∧ step s = .next t) ∧
    (∃ (s t : State) (elem : BitVec 31) (v : Word) (turns : List Turn), EngineInv s ∧ s.dstate = .armed ∧
      s.turns = .hostStore elem v :: turns ∧ step s = .next t) ∧
    ∃ (s t : State) (v : Word) (turns : List Turn), EngineInv s ∧ s.dstate = .armed ∧
      s.turns = .panelDrives v :: turns ∧ step s = .next t :=
  ⟨⟨State.reset, _, inv_reset, rfl⟩,
    ⟨transferring [] 2#32 false [.host] [], _, [], inv_armed _ _, rfl, rfl, rfl⟩,
    ⟨transferring [] 2#32 false [.callback [0x0201#16]] [], _, [0x0201#16], [], inv_armed _ _, rfl, rfl, rfl⟩,
    ⟨transferring [] 2#32 false [.hostStore 5#31 6#16] [], _, 5#31, 6#16, [], inv_armed _ _, rfl, rfl, rfl⟩,
    ⟨transferring [] 2#32 false [.panelDrives 5#16] [], _, 5#16, [], inv_armed _ _, rfl, rfl, rfl⟩⟩

theorem witness_StepKeepsWireDiscipline :
    ∃ s t : State, EngineInv s ∧ WireDiscipline s ∧ FramesShaped s ∧ step s = .next t :=
  ⟨State.reset, _, inv_reset, rfl, ⟨by decide, rfl, rfl, by intro h; cases h⟩, rfl⟩

theorem progress_transferring (turns cycle : List Turn) :
    TransferProgress (transferring [] 2#32 false turns cycle) where
  started := rfl
  only := by
    show ∀ e ∈ ([] : List Event), e.duringTransfer = true
    decide
  addresses := rfl
  values := rfl
  raised := rfl

theorem witness_StepKeepsTransfer :
    ∃ s t : State, EngineInv s ∧ TransferInv s ∧ s.dstate = .armed ∧ step s = .next t :=
  ⟨transferring [] 2#32 false [.dmaPush] [], _, inv_armed _ _,
    fun _ => progress_transferring _ _, rfl, rfl⟩

/-- The state before the handler, with the events of V-DMA-5's transfer. -/
def finished : State :=
  { transferring [] 0#32 true [.irqHandler] [] with
    traceRev := [.irqRaise 0#8, .tx .high 0x5555#16, .tx .high 0xAAAA#16, .memRead 0x20000202 0x5555#16,
      .memRead 0x20000200 0xAAAA#16, .dmaStart 0x20000200#32 2#32] }

theorem witness_HandlerEndsWholeTransfer :
    ∃ (s : State) (turns : List Turn), EngineInv s ∧ TransferInv s ∧ s.irqPending = true ∧ s.turns = .irqHandler :: turns := by
  have h := inv_transferring (words := []) (rem := 0#32) (pending := true) (by decide) (by decide)
    (fun _ => ⟨rfl, rfl⟩) [.irqHandler] []
  refine ⟨finished, [], ?_, fun _ => ⟨rfl, by decide, by decide, by decide, by decide⟩, rfl, rfl⟩
  exact
    { quiescent := h.quiescent
      selected_iff := h.selected_iff
      exclusive := h.exclusive
      selected_pixels := h.selected_pixels
      idle_drained := h.idle_drained
      armed_ready := h.armed_ready
      no_error := h.no_error
      error_code := h.error_code
      cpc_le := h.cpc_le
      thread_waits := h.thread_waits
      thread_holds := h.thread_holds
      callback_waits := h.callback_waits
      callback_holds := h.callback_holds
      fifo_fits := h.fifo_fits
      rem_le := h.rem_le
      pending_drained := h.pending_drained
      configured := h.configured
      armed_buffer := h.armed_buffer
      bound_line := h.bound_line
      rst_high := h.rst_high
      led_follows := h.led_follows
      mem_wf := h.mem_wf
      panel_wf := h.panel_wf }

/-- `FairRoundsEndTransfer`, its first clause: an armed transfer under its round, with the smallest FIFO it allows room for. -/
theorem witness_FairRoundsEndTransfer :
    ∃ s : State, EngineInv s ∧ 1 ≤ s.cfg.fifoDepth ∧ s.dstate = .armed ∧ s.turns = [] ∧
      s.cycle = [.dmaPush, .shift, .dmaDone, .irqHandler] :=
  ⟨transferring [] 2#32 false [] [.dmaPush, .shift, .dmaDone, .irqHandler],
    inv_armed _ _, by decide, rfl, rfl, rfl⟩

/-- A transfer of two elements in flight, with WAITCB next in the stream, under turns that end it and pass WAITCB. -/
def waiting : State :=
  { transferring [] 2#32 false [.dmaPush, .host, .dmaPush, .shift, .shift, .dmaDone, .irqHandler, .host] [.host] with
    prog := [0x4200#16] }

/-- The state in which the run of `waiting` comes to rest. -/
def waited : State :=
  { waiting with
    turns := []
    cpc := 1
    cs := .high
    dstate := .idle
    tdRem := 0#32
    panel := { Panel.unknown with ir := some 0x22#8 }
    traceRev := [.callback 0x10000301#32, .irqClear 0#8, .pin .cs .high, .irqRaise 0#8, .tx .high 0x5555#16,
      .tx .high 0xAAAA#16, .memRead 0x20000202 0x5555#16, .memRead 0x20000200 0xAAAA#16,
      .dmaStart 0x20000200#32 2#32] }

theorem waiting_ends : Reaches waiting 8 waited := rfl

theorem waited_rests : step waited = .next waited := rfl

/-- `FairRoundsEndTransfer`, its second clause: a run that is weakly fair, with WAITCB next, not yet
lifted, and HOST turns for ever. -/
theorem witness_FairRoundsEndTransfer_weakly :
    EngineInv waiting ∧ 1 ≤ waiting.cfg.fifoDepth ∧ waiting.dstate = .armed ∧ WeaklyFair waiting ∧
    waiting.prog.drop waiting.cpc = [0x4200#16] ∧
    (∀ n, ∃ k, n ≤ k ∧ ∃ t, Reaches waiting k t ∧ (takeTurn t).1 = .host) ∧
    waiting.wait ≠ .lifted :=
  ⟨{ inv_armed waiting.turns waiting.cycle with cpc_le := Nat.zero_le _, thread_waits := fun _ => ⟨[], rfl⟩ },
    by decide, rfl,
    weaklyFair_of_rest waiting_ends waited_rests (by intro a; cases a <;> rfl), rfl,
    fun n => ⟨8 + n, by omega, waited, reaches_add.2 ⟨waited, waiting_ends, reaches_rest waited_rests n⟩, rfl⟩,
    nofun⟩

/-- The cell (1, 0) has the key 220; the coordinate (0, 220) has no cell (20_memory R80; log 30). -/
theorem test_readGram_off_screen :
    ({ Panel.unknown with gram := [(220, 7#16)] }).readGram 1#16 0#16 = some 7#16 ∧
    ({ Panel.unknown with gram := [(220, 7#16)] }).readGram 0#16 220#16 = none := by decide

end Sys2Proof.Tests
end

section
/-!
PROOFS. The family of 00_scope: what an instruction can answer (`Executes`), the inputs no instruction touches, the
order of turns, and the discipline of the wire, kept by every agent's step.
-/

namespace Sys2Proof.Machine

/-- Every way an instruction answers a next state, with what its admission says of the state (60 R243, R245). FILL's
sizes stay variables, so that no proof unfolds its 38720 words. -/
inductive Executes (s : State) : Instr → State → Prop where
  | rejected (i : Instr) (v : Violation) : Executes s i (raise v s)
  | wridx (a : Byte) : s.dstate = .idle → s.frameOpen = false → Executes s (.wridx a) (indexFrame a s)
  | wrdat (v : Word) : s.dstate = .idle → s.frameOpen = false → Executes s (.wrdat v) (dataFrame v s)
  | setreg (a : Byte) (v : Word) : s.dstate = .idle → s.frameOpen = false →
      Executes s (.setreg a v) (writeRegister a v s)
  | getreg (a : Byte) : s.dstate = .idle → s.frameOpen = false → s.cfg.readSupport = true →
      Executes s (.getreg a) (readRegister a s)
  | setwin (hs he vs ve : Word) : s.dstate = .idle → s.frameOpen = false → validWindow ⟨hs, he, vs, ve⟩ = true →
      Executes s (.setwin hs he vs ve) (setWindow ⟨hs, he, vs, ve⟩ s)
  | setaddr (x y : Word) : s.dstate = .idle → s.frameOpen = false →
      Executes s (.setaddr x y) (writeRegisters [(s.cfg.idx.ramAddr1, x), (s.cfg.idx.ramAddr2, y)] s)
  | pxstart : s.dstate = .idle → s.frameOpen = false → Executes s .pxstart { openBurst s with frameOpen := true }
  | pxword (w : Word) : s.dstate = .idle → s.frameOpen = true → s.cs = .low → Executes s (.pxword w) (tx w s)
  | pxend : s.dstate = .idle → s.frameOpen = true → Executes s .pxend { closeBurst s with frameOpen := false }
  | wrpix (src n : DWord) : s.dstate = .idle → s.frameOpen = false → validBuffer src n.toNat = true →
      Executes s (.wrpix src n) (sendBuffer src n.toNat s)
  | dmawr (src n : DWord) : s.dstate = .idle → s.frameOpen = false → s.tdCfg = true →
      validBuffer src n.toNat = true → s.cbValid = true → Executes s (.dmawr src n) (startTransfer src n s)
  | fill (color w h : Word) : s.dstate = .idle → s.frameOpen = false → w = 220#16 → h = 176#16 →
      Executes s (.fill color) (fillRectangle 0#16 0#16 w h color s)
  | fillrect (x y w h color : Word) : s.dstate = .idle → s.frameOpen = false → validRect x y w h = true →
      Executes s (.fillrect x y w h color) (fillRectangle x y w h color s)
  | blit (x y w h : Word) (src : DWord) : s.dstate = .idle → s.frameOpen = false → validRect x y w h = true →
      validBuffer src (rectWords w h) = true →
      Executes s (.blit x y w h src) (sendBuffer src (rectWords w h) (setWindow (rectWindow x y w h) s))
  | init : s.dstate = .idle → s.frameOpen = false → Executes s .init (initIdCheck (initSequence s))
  | setcb (line : Byte) (fn : DWord) : s.dstate = .idle → s.frameOpen = false → validLine s.cfg line = true →
      Executes s (.setcb line fn) { s with cbLine := line, cbFn := fn, cbValid := true }
  | waitcb : s.frameOpen = false → Executes s .waitcb s
  | wIdx (a : Byte) : s.rs = .low → s.cs = .low → Executes s (.wIdx a) (shiftOut (indexWord a) s)
  | wDat (d : Word) : s.rs = .high → s.cs = .low → Executes s (.wDat d) (shiftOut d s)
  | wRd (v : Word) : s.cfg.readSupport = true → s.rs = .high → s.cs = .low → Executes s (.wRd v) (receiveWord v s)

/-- What `exec` answers with a next state is one of the ways listed. -/
theorem executes_of_exec {i : Instr} {s t : State} (h : exec i s = .next t) : Executes s i t := by
  cases i with
  | wridx a =>
    obtain ⟨v, rfl⟩ | ⟨hd, hf, rfl⟩ := execWridx_cases h
    · exact .rejected _ v
    · exact .wridx a hd hf
  | wrdat v =>
    obtain ⟨e, rfl⟩ | ⟨hd, hf, rfl⟩ := execWrdat_cases h
    · exact .rejected _ e
    · exact .wrdat v hd hf
  | setreg a v =>
    obtain ⟨e, rfl⟩ | ⟨hd, hf, rfl⟩ := execSetreg_cases h
    · exact .rejected _ e
    · exact .setreg a v hd hf
  | getreg a =>
    obtain ⟨v, rfl⟩ | ⟨hd, hf, hr, rfl⟩ := execGetreg_cases h
    · exact .rejected _ v
    · exact .getreg a hd hf hr
  | setwin hs he vs ve =>
    obtain ⟨v, rfl⟩ | ⟨hd, hf, hv, rfl⟩ := execSetwin_cases h
    · exact .rejected _ v
    · exact .setwin hs he vs ve hd hf hv
  | setaddr x y =>
    obtain ⟨v, rfl⟩ | ⟨hd, hf, rfl⟩ := execSetaddr_cases h
    · exact .rejected _ v
    · exact .setaddr x y hd hf
  | pxstart =>
    obtain ⟨v, rfl⟩ | ⟨hd, hf, rfl⟩ := execPxstart_cases h
    · exact .rejected _ v
    · exact .pxstart hd hf
  | pxword w =>
    obtain ⟨v, rfl⟩ | ⟨hd, hf, hc, rfl⟩ := execPxword_cases h
    · exact .rejected _ v
    · exact .pxword w hd hf hc
  | pxend =>
    obtain ⟨v, rfl⟩ | ⟨hd, hf, rfl⟩ := execPxend_cases h
    · exact .rejected _ v
    · exact .pxend hd hf
  | wrpix src n =>
    obtain ⟨v, rfl⟩ | ⟨hd, hf, hb, rfl⟩ := execWrpix_cases h
    · exact .rejected _ v
    · exact .wrpix src n hd hf hb
  | dmawr src n =>
    obtain ⟨v, rfl⟩ | ⟨hd, hf, ht, hb, hc, rfl⟩ := execDmawr_cases h
    · exact .rejected _ v
    · exact .dmawr src n hd hf ht hb hc
  | fill color =>
    obtain ⟨v, rfl⟩ | ⟨hd, hf, w, h', hw, hh, rfl⟩ := execFill_cases h
    · exact .rejected _ v
    · exact .fill color w h' hd hf hw hh
  | fillrect x y w h' color =>
    obtain ⟨v, rfl⟩ | ⟨hd, hf, hr, rfl⟩ := execFillrect_cases h
    · exact .rejected _ v
    · exact .fillrect x y w h' color hd hf hr
  | blit x y w h' src =>
    obtain ⟨v, rfl⟩ | ⟨hd, hf, hr, hb, rfl⟩ := execBlit_cases h
    · exact .rejected _ v
    · exact .blit x y w h' src hd hf hr hb
  | init =>
    obtain ⟨v, rfl⟩ | ⟨hd, hf, ht⟩ := execInit_cases h
    · exact .rejected _ v
    · exact ht ▸ .init hd hf
  | setcb line fn =>
    obtain ⟨v, rfl⟩ | ⟨hd, hf, hl, rfl⟩ := execSetcb_cases h
    · exact .rejected _ v
    · exact .setcb line fn hd hf hl
  | waitcb =>
    obtain ⟨v, rfl⟩ | ⟨hf, rfl⟩ := execWaitcb_cases h
    · exact .rejected _ v
    · exact .waitcb hf
  | wIdx a =>
    obtain ⟨hr, hc, rfl⟩ := execWIdx_cases h
    exact .wIdx a hr hc
  | wDat d =>
    obtain ⟨hr, hc, rfl⟩ := execWDat_cases h
    exact .wDat d hr hc
  | wRd v =>
    obtain ⟨hs, hr, hc, rfl⟩ := execWRd_cases h
    exact .wRd v hs hr hc

/-! The inputs of a step (10_state R30). -/

/-- From `s` to `t` no input of a step changes: parameters, stream, host memory, schedule, and what each context has
issued and waits for. -/
def KeepsInputs (s t : State) : Prop :=
  t.cfg = s.cfg ∧ t.prog = s.prog ∧ t.cpc = s.cpc ∧ t.cbProg = s.cbProg ∧ t.wait = s.wait ∧ t.cbWait = s.cbWait ∧
  t.turns = s.turns ∧ t.cycle = s.cycle ∧ t.mem = s.mem

theorem keepsInputs_initSequence (s : State) : KeepsInputs s (initSequence s) := by
  simp [KeepsInputs, initSequence, configureDescriptor, initBacklightOn, initDisplayOn, initConfigTable, initBooster,
    initPowerOn, initPowerZero, initResetPulse, initPinArm]

theorem keepsInputs_initIdCheck (s : State) : KeepsInputs s (initIdCheck s) := by
  obtain ⟨-, e⟩ | ⟨-, r, e⟩ := initIdCheck_cases s
  · simp [e, KeepsInputs]
  · simp [e, KeepsInputs]

theorem KeepsInputs.trans {s t u : State} (h : KeepsInputs s t) (h' : KeepsInputs t u) : KeepsInputs s u := by
  simp_all [KeepsInputs]

theorem keepsInputs_startTransfer (src n : DWord) (s : State) : KeepsInputs s (startTransfer src n s) := by
  simp [startTransfer, KeepsInputs]

/-- Each instruction is built of operations that keep the inputs: the `_kept` law of each says so. -/
theorem Executes.keepsInputs {i : Instr} {s t : State} (h : Executes s i t) : KeepsInputs s t := by
  cases h with
  | init => exact (keepsInputs_initSequence s).trans (keepsInputs_initIdCheck _)
  | dmawr => exact keepsInputs_startTransfer _ _ s
  | _ => simp [KeepsInputs]

/-- Settles O48: every way an instruction answers keeps the inputs, host memory as a whole. -/
theorem inputsUntouched : Obligations.InputsUntouched := by
  intro i s t h
  obtain ⟨hcfg, hprog, hcpc, hcb, hwait, hcbw, hturns, hcycle, hmem⟩ := (executes_of_exec h).keepsInputs
  exact ⟨hcfg, hprog, hcpc, hcb, hwait, hcbw, hturns, hcycle, fun a => by rw [hmem]⟩

/-! The order of turns (log 3). -/

/-- With no turn listed and no round, the HOST acts (log 3). -/
theorem step_of_no_turn {s : State} (h : s.turns = []) (hc : s.cycle = []) : step s = runTurn exec .host s := by
  simp [step, takeTurn, h, hc]

/-- Settles O5, one law of `step` for each shape of the schedule. -/
theorem stepTakesNextTurn : Obligations.StepTakesNextTurn :=
  fun _ => ⟨fun _ _ => step_of_turn, fun _ _ => step_of_round, step_of_no_turn⟩

/-! The discipline of the wire (00_scope R13). -/

/-- The events that neither drive CS or RS nor carry a word. -/
def Event.offWire : Event → Bool
  | .pin .rst _ => true
  | .pin .cs _ => false
  | .pin .rs _ => false
  | .tx _ _ => false
  | .rx _ _ => false
  | .lamp _ _ => true
  | .delay _ => true
  | .memRead _ _ => true
  | .dmaStart _ _ => true
  | .irqRaise _ => true
  | .irqClear _ => true
  | .callback _ => true
  | .violation _ => true

theorem pinsAfter_cons_of_offWire {e : Event} (he : e.offWire = true) (older : List Event) :
    pinsAfter (e :: older) = pinsAfter older := by
  cases hp : pinsAfter older with
  | none => simp [pinsAfter, hp]
  | some pins =>
    cases e with
    | pin p k =>
      cases p with
      | rst => simp [pinsAfter, hp]
      | cs => cases he
      | rs => cases he
    | tx => cases he
    | rx => cases he
    | _ => simp [pinsAfter, hp]

/-- The trace keeps the discipline of the wire and leaves CS at `l`, where the latch stands. -/
def WireAt (l : Level) (s : State) : Prop :=
  WireDiscipline s ∧ s.cs = l

section
variable {s : State} {l : Level}

theorem WireAt.discipline (h : WireAt l s) : WireDiscipline s :=
  h.1

theorem WireAt.pinsAfter_eq (h : WireAt l s) : pinsAfter s.traceRev = some (l, s.rs) := by
  obtain ⟨hw, rfl⟩ := h
  exact hw

theorem WireAt.of_eq {t : State} (h : WireAt l s) (ht : t.traceRev = s.traceRev) (hc : t.cs = s.cs) (hr : t.rs = s.rs) :
    WireAt l t := by
  simpa [WireAt, WireDiscipline, ht, hc, hr] using h

/-- CS may be driven at any time. -/
theorem WireAt.driveCs (h : WireAt l s) (k : Level) : WireAt k (driveCs k s) := by
  simp [WireAt, WireDiscipline, pinsAfter, h.pinsAfter_eq]

/-- RS is driven only while CS is high. -/
theorem WireAt.driveRs (h : WireAt .high s) (k : Level) : WireAt .high (driveRs k s) := by
  simp [WireAt, WireDiscipline, pinsAfter, h.pinsAfter_eq, h.2]

/-- A word is sent at the level of RS, inside a CS-low interval. -/
theorem WireAt.shiftOut (h : WireAt .low s) (v : Word) : WireAt .low (shiftOut v s) := by
  simp [WireAt, WireDiscipline, pinsAfter, h.pinsAfter_eq, h.2]

/-- A word is received at the level of RS, inside a CS-low interval. -/
theorem WireAt.receiveWord (h : WireAt .low s) (v : Word) : WireAt .low (receiveWord v s) := by
  simp [WireAt, WireDiscipline, pinsAfter, h.pinsAfter_eq, h.2]

/-- One event off the wire leaves the discipline as it is. -/
theorem WireAt.of_event {t : State} {e : Event} (h : WireAt l s) (ht : t.traceRev = e :: s.traceRev)
    (he : e.offWire = true) (hc : t.cs = s.cs) (hr : t.rs = s.rs) : WireAt l t := by
  simpa [WireAt, WireDiscipline, ht, hc, hr, pinsAfter_cons_of_offWire he] using h

theorem WireAt.emit {e : Event} (h : WireAt l s) (he : e.offWire = true) : WireAt l (emit e s) :=
  h.of_event rfl he rfl rfl

theorem WireAt.raise (h : WireAt l s) (v : Violation) : WireAt l (raise v s) :=
  h.of_event rfl rfl rfl rfl

theorem WireAt.memRead (h : WireAt l s) (a : Nat) : WireAt l (memRead a s) :=
  h.of_event rfl rfl rfl rfl

theorem WireAt.delay (h : WireAt l s) (ms : Nat) : WireAt l (delay ms s) :=
  h.of_event rfl rfl rfl rfl

theorem WireAt.driveRst (h : WireAt l s) (k : Level) : WireAt l (driveRst k s) :=
  h.of_event rfl rfl rfl rfl

theorem WireAt.driveBl (h : WireAt l s) (k : Lamp) : WireAt l (driveBl k s) :=
  h.of_event rfl rfl rfl rfl

theorem WireAt.driveLed (h : WireAt l s) (k : Lamp) : WireAt l (driveLed k s) := by
  unfold Machine.driveLed
  split
  · exact h.of_event rfl rfl rfl rfl
  · exact h

theorem WireAt.shiftAll (h : WireAt .low s) (ws : List Word) : WireAt .low (shiftAll ws s) := by
  induction ws generalizing s with
  | nil => exact h
  | cons v rest ih => exact ih (h.shiftOut v)

theorem WireAt.tx (h : WireAt .low s) (w : Word) : WireAt .low (tx w s) :=
  WireAt.shiftAll (s := { s with fifo := [] }) h _

theorem WireAt.rx (h : WireAt .low s) : WireAt .low (rx s) :=
  WireAt.receiveWord (s := { s with draws := s.draws + 1 }) h _

theorem WireAt.indexFrame (h : WireAt .high s) (a : Byte) : WireAt .high (indexFrame a s) :=
  (((h.driveRs .low).driveCs .low).tx _).driveCs .high

theorem WireAt.dataFrame (h : WireAt .high s) (v : Word) : WireAt .high (dataFrame v s) :=
  (((h.driveRs .high).driveCs .low).tx v).driveCs .high

theorem WireAt.writeRegister (h : WireAt .high s) (a : Byte) (v : Word) : WireAt .high (writeRegister a v s) :=
  (h.indexFrame a).dataFrame v

theorem WireAt.writeRegisters (h : WireAt .high s) (table : List (Byte × Word)) :
    WireAt .high (writeRegisters table s) := by
  induction table generalizing s with
  | nil => exact h
  | cons p rest ih => exact ih (h.writeRegister p.1 p.2)

theorem WireAt.readRegister (h : WireAt .high s) (a : Byte) : WireAt .high (readRegister a s) :=
  ((((h.indexFrame a).driveRs .high).driveCs .low).rx).driveCs .high

theorem WireAt.openBurst (h : WireAt .high s) : WireAt .low (openBurst s) :=
  ((h.indexFrame _).driveRs .high).driveCs .low

theorem WireAt.closeBurst (h : WireAt l s) : WireAt .high (closeBurst s) :=
  h.driveCs .high

theorem WireAt.txRepeat (h : WireAt .low s) (n : Nat) (w : Word) : WireAt .low (txRepeat n w s) := by
  induction n generalizing s with
  | zero => exact h
  | succ n ih => exact ih (h.tx w)

theorem WireAt.txBuffer (h : WireAt .low s) (n a : Nat) : WireAt .low (txBuffer n a s) := by
  induction n generalizing a s with
  | zero => exact h
  | succ n ih => exact ih ((h.memRead a).tx _) _

theorem WireAt.setWindow (h : WireAt .high s) (win : Window) : WireAt .high (setWindow win s) :=
  h.writeRegisters _

theorem WireAt.fillRectangle (hs : WireAt .high s) (x y w h color : Word) :
    WireAt .high (fillRectangle x y w h color s) :=
  ((hs.setWindow _).openBurst.txRepeat _ color).closeBurst

theorem WireAt.sendBuffer (h : WireAt .high s) (src : DWord) (n : Nat) : WireAt .high (sendBuffer src n s) :=
  (h.openBurst.txBuffer n _).closeBurst

/-- DMAWR leaves CS low for the transfer (43 R206). -/
theorem WireAt.startTransfer (h : WireAt .high s) (src n : DWord) : WireAt .low (startTransfer src n s) :=
  h.openBurst.of_event rfl rfl rfl rfl

/-- Stage 1 drives CS high before RS (41 R151). -/
theorem WireAt.initPinArm (h : WireAt l s) : WireAt .high (initPinArm s) :=
  (((((h.driveRst .high).driveCs .high).driveRs .low).driveBl .off).driveLed .off).delay 1

theorem WireAt.initResetPulse (h : WireAt l s) : WireAt l (initResetPulse s) :=
  (((h.driveRst .low).delay 10).driveRst .high).delay 50

theorem WireAt.initPowerZero (h : WireAt .high s) : WireAt .high (initPowerZero s) :=
  (h.writeRegisters _).delay 40

theorem WireAt.initPowerOn (h : WireAt .high s) : WireAt .high (initPowerOn s) :=
  (h.writeRegisters _).delay 10

theorem WireAt.initBooster (h : WireAt .high s) : WireAt .high (initBooster s) :=
  (h.writeRegister _ _).delay 50

theorem WireAt.initConfigTable (h : WireAt .high s) : WireAt .high (initConfigTable s) :=
  (h.writeRegisters _).delay 50

theorem WireAt.initDisplayOn (h : WireAt .high s) : WireAt .high (initDisplayOn s) :=
  (h.writeRegister _ _).delay 50

theorem WireAt.initBacklightOn (h : WireAt l s) : WireAt l (initBacklightOn s) :=
  (h.driveBl .on).driveLed .on

theorem WireAt.configureDescriptor (h : WireAt l s) : WireAt l (configureDescriptor s) :=
  h.of_eq rfl rfl rfl

theorem WireAt.initSequence (h : WireAt l s) : WireAt .high (initSequence s) :=
  have reset := h.initPinArm.initResetPulse
  have tables := reset.initPowerZero.initPowerOn.initBooster.initConfigTable.initDisplayOn
  tables.initBacklightOn.configureDescriptor

theorem WireAt.initIdCheck (h : WireAt .high s) : WireAt .high (initIdCheck s) := by
  obtain ⟨-, e⟩ | ⟨-, r, e⟩ := initIdCheck_cases s
  · exact h.of_eq (by rw [e]) (by rw [e]) (by rw [e])
  · exact (h.readRegister _).of_eq (by rw [e]) (by rw [e]) (by rw [e])

end

/-- An engine that is idle with no frame open has CS high (10_state R42.2). -/
def IdleDeselected (s : State) : Prop :=
  s.dstate = .idle → s.frameOpen = false → s.cs = .high

theorem EngineInv.idleDeselected {s : State} (h : EngineInv s) : IdleDeselected s := by
  intro hd hf
  cases hc : s.cs with
  | high => rfl
  | low =>
    rcases h.selected_iff.1 hc with ho | ha
    · rw [hf] at ho
      cases ho
    · rw [hd] at ha
      cases ha

/-- Each command opens and closes its frames around its words; those that send a bare word found CS low. -/
theorem Executes.wireDiscipline {i : Instr} {s t : State} (h : Executes s i t) (hi : IdleDeselected s)
    (hw : WireDiscipline s) : WireDiscipline t := by
  have high : s.dstate = .idle → s.frameOpen = false → WireAt .high s := fun hd hf => ⟨hw, hi hd hf⟩
  cases h with
  | rejected _ v => exact (WireAt.raise ⟨hw, rfl⟩ v).discipline
  | wridx a hd hf => exact ((high hd hf).indexFrame a).discipline
  | wrdat v hd hf => exact ((high hd hf).dataFrame v).discipline
  | setreg a v hd hf => exact ((high hd hf).writeRegister a v).discipline
  | getreg a hd hf => exact ((high hd hf).readRegister a).discipline
  | setwin hs he vs ve hd hf => exact ((high hd hf).setWindow _).discipline
  | setaddr x y hd hf => exact ((high hd hf).writeRegisters _).discipline
  | pxstart hd hf => exact (high hd hf).openBurst.discipline
  | pxword w _ _ hc => exact (WireAt.tx ⟨hw, hc⟩ w).discipline
  | pxend => exact (WireAt.closeBurst ⟨hw, rfl⟩).discipline
  | wrpix src n hd hf => exact ((high hd hf).sendBuffer src _).discipline
  | dmawr src n hd hf => exact ((high hd hf).startTransfer src n).discipline
  | fill color w h hd hf => exact ((high hd hf).fillRectangle _ _ w h color).discipline
  | fillrect x y w h color hd hf => exact ((high hd hf).fillRectangle x y w h color).discipline
  | blit x y w h src hd hf => exact (((high hd hf).setWindow _).sendBuffer src _).discipline
  | init hd hf => exact (high hd hf).initSequence.initIdCheck.discipline
  | setcb => exact hw
  | waitcb => exact hw
  | wIdx a _ hc => exact (WireAt.shiftOut ⟨hw, hc⟩ _).discipline
  | wDat d _ hc => exact (WireAt.shiftOut ⟨hw, hc⟩ d).discipline
  | wRd v _ _ hc => exact (WireAt.receiveWord ⟨hw, hc⟩ v).discipline

section
variable {s t : State}

theorem wireDiscipline_of_exec {i : Instr} (hi : IdleDeselected s) (hw : WireDiscipline s) (h : exec i s = .next t) :
    WireDiscipline t :=
  (executes_of_exec h).wireDiscipline hi hw

@[simp] theorem wireDiscipline_advance {c : Context} {len : Nat} :
    WireDiscipline (advance c len s) ↔ WireDiscipline s := by
  simp [WireDiscipline]

@[simp] theorem wireDiscipline_setWait {c : Context} {w : Wait} :
    WireDiscipline (setWait c w s) ↔ WireDiscipline s := by
  simp [WireDiscipline]

theorem wireDiscipline_of_issueCommand {c : Context} (hi : IdleDeselected s) (hw : WireDiscipline s)
    (h : issueCommand exec c s = .next t) : WireDiscipline t := by
  obtain ⟨-, rfl⟩ | ⟨_, len, -, rfl⟩ | ⟨i, len, u, -, hu, rfl⟩ := issueCommand_cases h
  · exact hw
  · exact wireDiscipline_advance.2 (WireAt.raise ⟨hw, rfl⟩ .illegal).discipline
  · have hu := wireDiscipline_of_exec hi hw hu
    split
    · exact wireDiscipline_advance.2 hu
    · exact wireDiscipline_setWait.2 hu

theorem wireDiscipline_of_contextTurn {c : Context} (hi : IdleDeselected s) (hw : WireDiscipline s)
    (h : contextTurn exec c s = .next t) : WireDiscipline t := by
  obtain ⟨-, h⟩ | ⟨-, -, rfl⟩ | ⟨-, -, rfl⟩ := contextTurn_cases h
  · exact wireDiscipline_of_issueCommand hi hw h
  · exact hw
  · simpa [endWait] using hw

/-- The SHIFTER sends its word as a wire item, or as it is, and either way only while CS is low (43 R212). -/
theorem wireDiscipline_of_shiftTurn (hi : IdleDeselected s) (hw : WireDiscipline s) (h : shiftTurn exec s = .next t) :
    WireDiscipline t := by
  unfold shiftTurn at h
  split at h
  · injection h with h
    exact h ▸ hw
  · rename_i v rest _
    split at h
    · exact wireDiscipline_of_exec (s := { s with fifo := rest }) hi hw h
    · obtain ⟨hc, rfl⟩ := whileSelected_cases h
      exact (WireAt.shiftOut (s := { s with fifo := rest }) ⟨hw, hc⟩ v).discipline

theorem wireDiscipline_of_panelTurn {v : Word} (hi : IdleDeselected s) (hw : WireDiscipline s)
    (h : panelTurn exec v s = .next t) : WireDiscipline t := by
  unfold panelTurn at h
  split at h
  · split at h
    · exact wireDiscipline_of_exec hi hw h
    · injection h with h
      exact h ▸ hw
  · injection h with h
    exact h ▸ hw

theorem wireDiscipline_dmaPush (hw : WireDiscipline s) : WireDiscipline (dmaPush s) := by
  unfold dmaPush
  split
  · exact (WireAt.memRead ⟨hw, rfl⟩ _).discipline
  · exact hw

theorem wireDiscipline_dmaDone (hw : WireDiscipline s) : WireDiscipline (dmaDone s) := by
  unfold dmaDone
  split
  · exact (WireAt.emit (s := { s with irqPending := true }) (e := .irqRaise s.cbLine) ⟨hw, rfl⟩ rfl).discipline
  · exact hw

/-- The handler raises CS; its two other events are off the wire (43 R214). -/
theorem wireDiscipline_irqHandler (hw : WireDiscipline s) : WireDiscipline (irqHandler s) := by
  unfold irqHandler
  split
  · have closed : WireAt .high (closeBurst s) := WireAt.closeBurst ⟨hw, rfl⟩
    exact ((closed.emit (e := .irqClear s.cbLine) rfl).emit (e := .callback s.cbFn) rfl).discipline
  · exact hw

/-- Whichever agent's turn it is. -/
theorem wireDiscipline_of_runTurn {turn : Turn} (hi : IdleDeselected s) (hw : WireDiscipline s)
    (h : runTurn exec turn s = .next t) : WireDiscipline t := by
  cases turn with
  | host => exact wireDiscipline_of_contextTurn hi hw h
  | callback words => exact wireDiscipline_of_contextTurn (s := extendCallback words s) hi hw h
  | shift => exact wireDiscipline_of_shiftTurn hi hw h
  | panelDrives v => exact wireDiscipline_of_panelTurn hi hw h
  | dmaPush =>
    injection h with h
    exact h ▸ wireDiscipline_dmaPush hw
  | dmaDone =>
    injection h with h
    exact h ▸ wireDiscipline_dmaDone hw
  | irqHandler =>
    injection h with h
    exact h ▸ wireDiscipline_irqHandler hw
  | hostStore elem v =>
    injection h with h
    exact h ▸ hw

/-- Taking a turn off the schedule changes nothing but the schedule (log 3). -/
theorem takeTurn_eq (s : State) : ∃ rest, (takeTurn s).2 = { s with turns := rest } := by
  unfold takeTurn
  split <;> exact ⟨_, rfl⟩

end

/-- Settles O55: no turn breaks the discipline; the invariant gives that a command finds CS high (10_state R42.2). -/
theorem stepKeepsWireDiscipline : Obligations.StepKeepsWireDiscipline := by
  intro s t hinv hw h
  obtain ⟨rest, he⟩ := takeTurn_eq s
  rw [step, he] at h
  exact wireDiscipline_of_runTurn (s := { s with turns := rest }) hinv.idleDeselected hw h

end Sys2Proof.Machine
end

section
/-!
PROOFS. The family of 10_state: the invariant of R42, kept by every agent's step and met after reset; who writes each
register; what a step runs; reset and the status port.
-/

namespace Sys2Proof

/-! What the decoder reads, and how many words it passes (30_encoding R103, R106, R107). -/

/-- An instruction assembled is one of the command rows, and as many words are there as its row takes. -/
theorem Opcode.assemble_some {op : Opcode} {a : Byte} {operands : List Word} {i : Instr}
    (h : op.assemble a operands = some i) : i.isCommand = true ∧ op.len ≤ operands.length + 1 := by
  unfold Opcode.assemble at h
  split at h <;> cases h <;> simp [Instr.isCommand, Opcode.len]

theorem Opcode.assemble_waitcb {op : Opcode} {a : Byte} {operands : List Word}
    (h : op.assemble a operands = some .waitcb) : op = .waitcb := by
  unfold Opcode.assemble at h
  split at h <;> cases h
  rfl

/-- The ways a command is decoded: its first word's row, its reserved byte, and its row's operands (30 R106). -/
theorem decodeCommand_command {words : List Word} {i : Instr} {len : Nat} (h : decodeCommand words = .command i len) :
    ∃ c0 rest op, words = c0 :: rest ∧ Opcode.ofByte (opField c0) = some op ∧
      ¬(op.hasImm = false ∧ immField c0 ≠ 0#8) ∧ op.assemble (immField c0) rest = some i ∧ len = op.len := by
  unfold decodeCommand at h
  split at h
  · cases h
  · rename_i c0 rest
    split at h
    · cases h
    · rename_i op hop
      split at h
      · cases h
      · split at h
        · cases h
        · rename_i j hj
          injection h with hi hl
          exact ⟨c0, rest, op, rfl, hop, ‹_›, hi ▸ hj, hl.symm⟩

theorem isCommand_of_decodeCommand {words : List Word} {i : Instr} {len : Nat}
    (h : decodeCommand words = .command i len) : i.isCommand = true := by
  obtain ⟨_, _, _, -, -, -, ha, -⟩ := decodeCommand_command h
  exact (Opcode.assemble_some ha).1

theorem len_le_of_decodeCommand {words : List Word} {i : Instr} {len : Nat}
    (h : decodeCommand words = .command i len) : len ≤ words.length := by
  obtain ⟨c0, rest, op, rfl, -, -, ha, rfl⟩ := decodeCommand_command h
  exact (Opcode.assemble_some ha).2

/-- An illegal command, cut off or not, consumes no more words than there are (30 R103, R107). -/
theorem len_le_of_illegal {words : List Word} {why : Illegal} {len : Nat}
    (h : decodeCommand words = .illegal why len) : len ≤ words.length := by
  unfold decodeCommand at h
  split at h
  · cases h
  · split at h
    · cases h
      simp
    · split at h
      · cases h
        simp
      · split at h
        · cases h
          simp
        · cases h

/-- WAITCB is one word, 0x4200 (30 R106). -/
theorem words_of_waitcb {words : List Word} {len : Nat} (h : decodeCommand words = .command .waitcb len) :
    ∃ rest, words = 0x4200#16 :: rest := by
  obtain ⟨c0, rest, op, rfl, hop, himm, ha, -⟩ := decodeCommand_command h
  obtain rfl := Opcode.assemble_waitcb ha
  have hi : immField c0 = 0#8 := by simpa [Opcode.hasImm] using himm
  refine ⟨rest, ?_⟩
  rw [← firstWord_fields c0, ← Opcode.byte_ofByte hop, hi]
  rfl

end Sys2Proof

namespace Sys2Proof.Machine

/-! The far end and the frames from a drained FIFO, as events. -/

@[simp] theorem Panel.afterRead_ir (c : Config) (p : Panel) : (Panel.afterRead c p).ir = p.ir := by
  unfold Panel.afterRead
  split
  · rfl
  · split <;> rfl

theorem canonical_meet {p : Panel} (hp : p.Canonical) (c : Config) (e : Event) : (Panel.meet c p e).Canonical := by
  unfold Panel.meet
  split
  · exact Panel.canonical_consume hp c _ _
  · exact Panel.canonical_afterRead hp c
  · exact Panel.canonical_unknown
  all_goals exact hp

/-- Whatever events the far end meets, its lists stay in canonical form. -/
theorem canonical_farEndAfter {p : Panel} (hp : p.Canonical) (c : Config) (events : List Event) :
    (farEndAfter c events p).Canonical := by
  induction events generalizing p with
  | nil => exact hp
  | cons e rest ih => exact ih (canonical_meet hp c e)

/-- WRIDX's actions as their events (40 R130). -/
theorem indexFrame_withEvents {s : State} (h : s.fifo = []) (a : Byte) :
    indexFrame a s = { s.withEvents (indexFrameEvents a) with cs := .high, rs := .low } := by
  simp only [indexFrame_drained h, State.withEvents, farEndAfter_indexFrame]

/-- WRDAT's actions as their events (40 R131). -/
theorem dataFrame_withEvents {s : State} (h : s.fifo = []) (v : Word) :
    dataFrame v s = { s.withEvents (dataFrameEvents v) with cs := .high, rs := .high } := by
  simp only [dataFrame_drained h, State.withEvents, farEndAfter_dataFrame]

/-- A table of register writes as its events (40 R132, 42 R171). -/
theorem writeRegisters_withEvents {s : State} (h : s.fifo = []) {table : List (Byte × Word)} (hn : table ≠ []) :
    writeRegisters table s = { s.withEvents (tableEvents table) with cs := .high, rs := .high } := by
  rw [writeRegisters_eq_writesDone h (Or.inl hn), writesDone_withEvents]

/-! The invariant of 10_state R42 under the operations of a command. -/

/-- With the invariant, an engine that admits an ordinary command has a drained FIFO (10_state R42.5). -/
theorem EngineInv.ready {s : State} (h : EngineInv s) (hd : s.dstate = .idle) (hf : s.frameOpen = false) : Ready s :=
  ⟨hd, hf, (h.idle_drained hd).1⟩

theorem Ready.not_selected {s : State} (hr : Ready s) : ¬(s.frameOpen = true ∨ s.dstate = .armed) := by
  simp [hr.closed, hr.idle]

theorem Violation.code_range (v : Violation) : 1 ≤ v.code.toNat ∧ v.code.toNat ≤ 9 := by
  cases v <;> decide

section
variable {s : State}

/-- A violation is recorded with one of the nine codes, and the first is kept (60 R241, R243). -/
theorem EngineInv.raise (h : EngineInv s) (v : Violation) : EngineInv (raise v s) :=
  { h with
    no_error := nofun
    error_code := fun _ => by
      cases he : s.err with
      | false => simpa [Machine.raise, emit, he] using v.code_range
      | true => simpa [Machine.raise, emit, he] using h.error_code he }

/-- Whole frames sent by a ready engine leave CS high, and change nothing else the invariant reads (40 R137). -/
theorem EngineInv.framesSent (h : EngineInv s) (hr : Ready s) (events : List Event) (rs : Level) (result : DWord)
    (draws : Nat) :
    EngineInv { s.withEvents events with cs := .high, rs := rs, result := result, draws := draws } :=
  { h with
    selected_iff := ⟨nofun, fun hs => absurd hs hr.not_selected⟩
    selected_pixels := nofun
    panel_wf := canonical_farEndAfter h.panel_wf s.cfg events }

theorem EngineInv.indexFrame (h : EngineInv s) (hr : Ready s) (a : Byte) : EngineInv (indexFrame a s) :=
  indexFrame_withEvents hr.drained a ▸ h.framesSent hr _ .low s.result s.draws

theorem EngineInv.dataFrame (h : EngineInv s) (hr : Ready s) (v : Word) : EngineInv (dataFrame v s) :=
  dataFrame_withEvents hr.drained v ▸ h.framesSent hr _ .high s.result s.draws

theorem EngineInv.writeRegisters (h : EngineInv s) (hr : Ready s) {table : List (Byte × Word)} (hn : table ≠ []) :
    EngineInv (writeRegisters table s) :=
  writeRegisters_withEvents hr.drained hn ▸ h.framesSent hr _ .high s.result s.draws

/-- Whatever `result` takes: GETREG the word read, INIT the difference (10_state R39). -/
theorem EngineInv.readRegister (h : EngineInv s) (hr : Ready s) (a : Byte) (result : DWord) :
    EngineInv { readRegister a s with result := result } :=
  readRegister_withEvents hr.drained a ▸ h.framesSent hr _ .high result (s.draws + 1)

theorem EngineInv.setWindow (h : EngineInv s) (hr : Ready s) (win : Window) : EngineInv (setWindow win s) :=
  h.writeRegisters hr (by simp)

theorem Ready.setWindow (hr : Ready s) (win : Window) : Ready (setWindow win s) :=
  ⟨by simp [hr.idle], by simp [hr.closed], by simp⟩

theorem EngineInv.sendBuffer (h : EngineInv s) (hr : Ready s) (src : DWord) (n : Nat) :
    EngineInv (sendBuffer src n s) :=
  sendBuffer_withEvents hr.drained src n ▸ h.framesSent hr _ .high s.result s.draws

theorem EngineInv.fillRectangle (hi : EngineInv s) (hr : Ready s) (x y w h color : Word) :
    EngineInv (fillRectangle x y w h color s) :=
  fillRectangle_withEvents hr.drained x y w h color ▸ hi.framesSent hr _ .high s.result s.draws

/-- A pixel word keeps the latched index, and with it R42.4 (20_memory R84). -/
theorem EngineInv.shiftOut (h : EngineInv s) (hc : s.cs = .low) (v : Word) : EngineInv (shiftOut v s) := by
  obtain ⟨hrs, hir⟩ := h.selected_pixels hc
  refine { h with selected_pixels := fun _ => ⟨hrs, ?_⟩, panel_wf := Panel.canonical_consume h.panel_wf _ _ _ }
  simpa [hrs, Panel.consume] using Panel.dataWord_ir_pixel hir v

theorem EngineInv.receiveWord (h : EngineInv s) (v : Word) : EngineInv (receiveWord v s) :=
  { h with
    selected_pixels := fun hc => by simpa using h.selected_pixels hc
    panel_wf := Panel.canonical_afterRead h.panel_wf _ }

/-- PXSTART opens the frame with the GRAM index latched (43 R200). -/
theorem EngineInv.openFrame (h : EngineInv s) (hr : Ready s) : EngineInv { openBurst s with frameOpen := true } := by
  rw [openBurst_withEvents hr.drained]
  exact
    { h with
      selected_iff := ⟨fun _ => Or.inl rfl, fun _ => rfl⟩
      exclusive := fun _ => hr.idle
      selected_pixels := fun _ => ⟨rfl, by simp⟩
      panel_wf := canonical_farEndAfter h.panel_wf _ _ }

/-- PXEND closes the frame (43 R202). -/
theorem EngineInv.closeFrame (h : EngineInv s) (hd : s.dstate = .idle) :
    EngineInv { closeBurst s with frameOpen := false } :=
  { h with
    selected_iff := ⟨nofun, fun hs => absurd hs (by simp [hd])⟩
    exclusive := nofun
    selected_pixels := nofun }

/-- DMAWR arms the transfer with its whole buffer to go (43 R206). -/
theorem EngineInv.startTransfer (h : EngineInv s) (hr : Ready s) {src n : DWord} (ht : s.tdCfg = true)
    (hb : validBuffer src n.toNat = true) (hc : s.cbValid = true) : EngineInv (startTransfer src n s) := by
  have hp : s.irqPending = false := (h.idle_drained hr.idle).2.1
  rw [Machine.startTransfer, openBurst_withEvents hr.drained]
  exact
    { h with
      quiescent := Or.inr rfl
      selected_iff := ⟨fun _ => Or.inr rfl, fun _ => rfl⟩
      exclusive := fun ho => absurd (hr.closed.symm.trans ho) nofun
      selected_pixels := fun _ => ⟨rfl, by simp⟩
      idle_drained := nofun
      armed_ready := fun _ => ⟨hc, ht⟩
      thread_holds := fun _ => rfl
      callback_holds := fun _ => rfl
      rem_le := Nat.le_refl _
      pending_drained := fun hq => absurd (hp.symm.trans hq) nofun
      armed_buffer := fun _ => hb
      panel_wf := canonical_farEndAfter h.panel_wf _ _ }

/-- SETCB binds a line of `IRQ_LINES` (43 R208). -/
theorem EngineInv.bindCallback (h : EngineInv s) {line : Byte} (hl : validLine s.cfg line = true) (fn : DWord) :
    EngineInv { s with cbLine := line, cbFn := fn, cbValid := true } :=
  { h with
    armed_ready := fun ha => ⟨rfl, (h.armed_ready ha).2⟩
    bound_line := fun _ => hl }

/-- INIT's stages 1 to 8 and the descriptor (41 R150): the panel out of reset, the lamps on, the
descriptor configured. -/
theorem EngineInv.initSequence (h : EngineInv s) (hr : Ready s) : EngineInv (initSequence s) := by
  rw [initSequence_withEvents hr.drained]
  exact
    { h with
      selected_iff := ⟨nofun, fun hs => absurd hs hr.not_selected⟩
      selected_pixels := nofun
      armed_ready := fun ha => ⟨(h.armed_ready ha).1, rfl⟩
      configured := fun _ => ⟨rfl, rfl, rfl⟩
      rst_high := rfl
      led_follows := by
        have hl := h.led_follows
        cases hp : s.cfg.hasLedPin with
        | false => simpa [hp] using hl
        | true => simp [hp]
      panel_wf := canonical_farEndAfter h.panel_wf _ _ }

theorem Ready.initSequence (hr : Ready s) : Ready (initSequence s) := by
  rw [initSequence_withEvents hr.drained]
  exact ⟨hr.idle, hr.closed, hr.drained⟩

theorem EngineInv.initIdCheck (h : EngineInv s) (hr : Ready s) : EngineInv (initIdCheck s) := by
  obtain ⟨-, e⟩ | ⟨-, r, e⟩ := initIdCheck_cases s
  · exact e ▸ { h with }
  · exact e ▸ h.readRegister hr _ r

end

/-- Every way an instruction answers keeps the invariant. -/
theorem Executes.inv {i : Instr} {s t : State} (h : Executes s i t) (hs : EngineInv s) : EngineInv t := by
  have ready : s.dstate = .idle → s.frameOpen = false → Ready s := hs.ready
  cases h with
  | rejected _ v => exact hs.raise v
  | wridx a hd hf => exact hs.indexFrame (ready hd hf) a
  | wrdat v hd hf => exact hs.dataFrame (ready hd hf) v
  | setreg a v hd hf => exact hs.writeRegisters (ready hd hf) (table := [(a, v)]) (by simp)
  | getreg a hd hf => exact hs.readRegister (ready hd hf) a _
  | setwin _ _ _ _ hd hf => exact hs.setWindow (ready hd hf) _
  | setaddr _ _ hd hf => exact hs.writeRegisters (ready hd hf) (by simp)
  | pxstart hd hf => exact hs.openFrame (ready hd hf)
  | pxword w hd _ hc => exact tx_of_drained (hs.idle_drained hd).1 w ▸ hs.shiftOut hc w
  | pxend hd => exact hs.closeFrame hd
  | wrpix src n hd hf => exact hs.sendBuffer (ready hd hf) src _
  | dmawr src n hd hf ht hb hc => exact hs.startTransfer (ready hd hf) ht hb hc
  | fill color w h hd hf => exact hs.fillRectangle (ready hd hf) _ _ w h color
  | fillrect x y w h color hd hf => exact hs.fillRectangle (ready hd hf) x y w h color
  | blit x y w h src hd hf => exact (hs.setWindow (ready hd hf) _).sendBuffer ((ready hd hf).setWindow _) src _
  | init hd hf => exact (hs.initSequence (ready hd hf)).initIdCheck (ready hd hf).initSequence
  | setcb line fn _ _ hl => exact hs.bindCallback hl fn
  | waitcb => exact hs
  | wIdx a _ hc => exact hs.shiftOut hc _
  | wDat d _ hc => exact hs.shiftOut hc d
  | wRd v => exact hs.receiveWord v

/-! The invariant under a context's turn (10_state R33; 43 R209). -/

section
variable {s : State}

/-- A context moves past words it has, outside of a WAITCB. -/
theorem EngineInv.advance (h : EngineInv s) {c : Context} {len : Nat} (hw : s.waitOf c = .none)
    (hl : len ≤ (s.wordsOf c).length) : EngineInv (advance c len s) := by
  cases c with
  | thread =>
    simp only [wordsOf_thread, State.remaining, List.length_drop] at hl
    have hle := h.cpc_le
    exact
      { h with
        cpc_le := show s.cpc + len ≤ s.prog.length by omega
        thread_waits := fun hn => absurd hw hn }
  | interrupt => exact { h with callback_waits := fun hn => absurd hw hn }

/-- A WAITCB that is its context's next command holds during a transfer. -/
theorem EngineInv.hold (h : EngineInv s) {c : Context} (hw : ∃ rest, s.wordsOf c = 0x4200#16 :: rest)
    (ha : s.dstate = .armed) : EngineInv (setWait c .holding s) := by
  cases c with
  | thread => exact { h with thread_waits := fun _ => hw, thread_holds := fun _ => ha }
  | interrupt => exact { h with callback_waits := fun _ => hw, callback_holds := fun _ => ha }

theorem EngineInv.stopWaiting (h : EngineInv s) (c : Context) : EngineInv (setWait c .none s) := by
  cases c with
  | thread => exact { h with thread_waits := fun hn => absurd rfl hn, thread_holds := nofun }
  | interrupt => exact { h with callback_waits := fun hn => absurd rfl hn, callback_holds := nofun }

/-- The command a context waits in is the next of its words. -/
theorem EngineInv.waits (h : EngineInv s) {c : Context} (hw : s.waitOf c ≠ .none) :
    ∃ rest, s.wordsOf c = 0x4200#16 :: rest := by
  cases c with
  | thread => exact h.thread_waits hw
  | interrupt => exact h.callback_waits hw

@[simp] theorem wordsOf_setWait (c : Context) (w : Wait) (s : State) : (setWait c w s).wordsOf c = s.wordsOf c := by
  cases c <;> rfl

@[simp] theorem waitOf_setWait (c : Context) (w : Wait) (s : State) : (setWait c w s).waitOf c = w := by
  cases c <;> rfl

/-- WAITCB returns past its one word. -/
theorem EngineInv.endWait (h : EngineInv s) {c : Context} (hw : s.waitOf c ≠ .none) : EngineInv (endWait c s) := by
  obtain ⟨rest, hr⟩ := h.waits hw
  exact (h.stopWaiting c).advance (by simp) (by simp [hr])

theorem KeepsInputs.wordsOf {t : State} (h : KeepsInputs s t) (c : Context) : t.wordsOf c = s.wordsOf c := by
  obtain ⟨-, hprog, hcpc, hcb, -⟩ := h
  cases c <;> simp [State.remaining, hprog, hcpc, hcb]

theorem KeepsInputs.waitOf {t : State} (h : KeepsInputs s t) (c : Context) : t.waitOf c = s.waitOf c := by
  obtain ⟨-, -, -, -, hw, hcw, -⟩ := h
  cases c <;> simp [hw, hcw]

/-- A command that does not return at once is a WAITCB, admitted in a transfer, which has no effect (43 R209). -/
theorem EngineInv.of_not_returns (h : EngineInv s) {t : State} {i : Instr} (he : exec i s = .next t)
    (hr : commandReturns i s = false) : i = .waitcb ∧ s.dstate = .armed ∧ t = s := by
  have hn : ¬ commandReturns i s = true := by simp [hr]
  rw [commandReturns_iff, not_not] at hn
  obtain ⟨rfl, hd, hf⟩ := hn
  have ht : exec .waitcb s = .next s := by simp [exec, execWaitcb, admission_waiting_none.2 hf]
  rw [ht] at he
  injection he with he
  exact ⟨rfl, h.quiescent.resolve_left hd, he.symm⟩

theorem inv_of_issueCommand {c : Context} {t : State} (hs : EngineInv s) (hw : s.waitOf c = .none)
    (h : issueCommand exec c s = .next t) : EngineInv t := by
  obtain ⟨-, rfl⟩ | ⟨why, len, hd, rfl⟩ | ⟨i, len, u, hd, hu, rfl⟩ := issueCommand_cases h
  · exact hs
  · exact (hs.raise .illegal).advance (by cases c <;> exact hw) (by cases c <;> exact len_le_of_illegal hd)
  · have kept := (executes_of_exec hu).keepsInputs
    have hu' := (executes_of_exec hu).inv hs
    cases hr : commandReturns i s with
    | true => exact hu'.advance (by rw [kept.waitOf, hw]) (kept.wordsOf c ▸ len_le_of_decodeCommand hd)
    | false =>
      obtain ⟨rfl, ha, rfl⟩ := hs.of_not_returns hu hr
      exact hs.hold (words_of_waitcb hd) ha

theorem inv_of_contextTurn {c : Context} {t : State} (hs : EngineInv s) (h : contextTurn exec c s = .next t) :
    EngineInv t := by
  obtain ⟨hw, h⟩ | ⟨-, -, rfl⟩ | ⟨hw, -, rfl⟩ := contextTurn_cases h
  · exact inv_of_issueCommand hs hw h
  · exact hs
  · exact hs.endWait hw

theorem EngineInv.extendCallback (h : EngineInv s) (words : List Word) : EngineInv (extendCallback words s) :=
  { h with
    callback_waits := fun hn => by
      obtain ⟨rest, hr⟩ := h.callback_waits hn
      exact ⟨rest ++ words, by simp [hr]⟩ }

/-! The invariant under the other agents' turns (43 R211 to R214; 20_memory R76). -/

/-- Words wait in the FIFO only during a transfer (10_state R42.1, R42.5). -/
theorem EngineInv.armed_of_fifo (h : EngineInv s) (hf : s.fifo ≠ []) : s.dstate = .armed :=
  h.quiescent.resolve_left fun hd => hf (h.idle_drained hd).1

theorem EngineInv.selected_of_armed (h : EngineInv s) (ha : s.dstate = .armed) : s.cs = .low :=
  h.selected_iff.2 (Or.inr ha)

/-- The SHIFTER takes the FIFO's head. -/
theorem EngineInv.popFifo (h : EngineInv s) {v : Word} {rest : List Word} (hf : s.fifo = v :: rest) :
    EngineInv { s with fifo := rest } := by
  have hn : s.fifo ≠ [] := by simp [hf]
  have ha := h.armed_of_fifo hn
  exact
    { h with
      idle_drained := fun hd => absurd (h.idle_drained hd).1 hn
      fifo_fits := Nat.le_of_succ_le (show (v :: rest).length ≤ _ from hf ▸ h.fifo_fits)
      pending_drained := fun hp => absurd (h.pending_drained hp).2.2 hn }

/-- Everything a next state of the SHIFTER's turn can be (43 R212): no word was there, or the head left as the item it
is, or as it is. -/
theorem shiftTurn_cases {t : State} (h : shiftTurn exec s = .next t) :
    (s.fifo = [] ∧ t = s) ∨
    ∃ v rest, s.fifo = v :: rest ∧
      ((∃ i, decodeWire .sent (wireItem s.rs v) = some i ∧ exec i { s with fifo := rest } = .next t) ∨
        (s.cs = .low ∧ t = shiftOut v { s with fifo := rest })) := by
  unfold shiftTurn at h
  split at h
  · rename_i hf
    injection h with h
    exact Or.inl ⟨hf, h.symm⟩
  · rename_i v rest hf
    refine Or.inr ⟨v, rest, hf, ?_⟩
    split at h
    · rename_i i hi
      exact Or.inl ⟨i, hi, h⟩
    · exact Or.inr (whileSelected_cases h)

theorem inv_of_shiftTurn {t : State} (hs : EngineInv s) (h : shiftTurn exec s = .next t) : EngineInv t := by
  obtain ⟨-, rfl⟩ | ⟨v, rest, hf, ⟨i, -, h⟩ | ⟨hc, rfl⟩⟩ := shiftTurn_cases h
  · exact hs
  · exact (executes_of_exec h).inv (hs.popFifo hf)
  · exact (hs.popFifo hf).shiftOut hc v

/-- Between two steps no read is in progress: CS is low only in a frame or a transfer (10_state R42.2; log 14). -/
theorem EngineInv.no_read (h : EngineInv s) : readInProgress s = false := by
  cases hc : s.cs with
  | high => simp [readInProgress, hc]
  | low =>
    obtain hf | ha := h.selected_iff.1 hc
    · simp [readInProgress, hf]
    · simp [readInProgress, ha]

/-- With the invariant the PANEL's turn passes. -/
theorem EngineInv.panelTurn_eq (h : EngineInv s) (v : Word) : panelTurn exec v s = .next s := by
  simp [panelTurn, h.no_read]

/-- The DMA reads the next element into a FIFO with room, of those that remain. -/
theorem EngineInv.dmaPush (h : EngineInv s) : EngineInv (dmaPush s) := by
  unfold Machine.dmaPush
  split
  · rename_i he
    obtain ⟨⟨ha, hr⟩, hq⟩ : (s.dstate = .armed ∧ s.tdRem ≠ 0#32) ∧ s.fifo.length < s.cfg.fifoDepth := by
      simpa [dmaPushEnabled, dataRequest] using he
    have hle := h.rem_le
    have hpos : (s.tdRem - 1#32).toNat ≤ s.tdRem.toNat := by bv_omega
    exact
      { h with
        idle_drained := fun hd => absurd (ha.symm.trans hd) nofun
        fifo_fits := by simpa using hq
        rem_le := hpos.trans hle
        pending_drained := fun hp => absurd (h.pending_drained hp).2.1 hr }
  · exact h

/-- The condition is raised when the transfer is drained. -/
theorem EngineInv.dmaDone (h : EngineInv s) : EngineInv (dmaDone s) := by
  unfold Machine.dmaDone
  split
  · rename_i he
    obtain ⟨⟨⟨ha, hr⟩, hf⟩, -⟩ : ((s.dstate = .armed ∧ s.tdRem = 0#32) ∧ s.fifo = []) ∧ s.irqPending = false := by
      simpa [dmaDoneEnabled] using he
    exact
      { h with
        idle_drained := fun hd => absurd (ha.symm.trans hd) nofun
        pending_drained := fun _ => ⟨ha, hr, hf⟩ }
  · exact h

theorem Wait.lift_ne_none {w : Wait} (h : w.lift ≠ .none) : w ≠ .none := by
  rintro rfl
  exact h rfl

theorem Wait.lift_ne_holding (w : Wait) : w.lift ≠ .holding := by
  cases w <;> nofun

/-- `IrqHandler` as one update of the state (43 R214, R209). -/
theorem irqHandler_of_pending (hp : s.irqPending = true) :
    irqHandler s =
      { s with
        cs := .high
        dstate := .idle
        irqPending := false
        wait := s.wait.lift
        cbWait := s.cbWait.lift
        traceRev := [.callback s.cbFn, .irqClear s.cbLine, .pin .cs .high] ++ s.traceRev } := by
  simp [irqHandler, hp, closeBurst, driveCs, emit, liftWaits]

theorem irqHandler_of_not_pending (hp : s.irqPending = false) : irqHandler s = s := by
  simp [irqHandler, hp]

/-- The handler closes the framing of a drained transfer and lifts what waits for it. -/
theorem EngineInv.irqHandler (h : EngineInv s) : EngineInv (irqHandler s) := by
  cases hp : s.irqPending with
  | false => rwa [irqHandler_of_not_pending hp]
  | true =>
    obtain ⟨ha, hr, hf⟩ := h.pending_drained hp
    have ho : s.frameOpen ≠ true := fun ho => absurd (ha.symm.trans (h.exclusive ho)) nofun
    rw [irqHandler_of_pending hp]
    exact
      { h with
        quiescent := Or.inl rfl
        selected_iff := ⟨nofun, fun hs => hs.elim (absurd · ho) nofun⟩
        exclusive := fun _ => rfl
        selected_pixels := nofun
        idle_drained := fun _ => ⟨hf, rfl, hr⟩
        armed_ready := nofun
        thread_waits := fun hn => h.thread_waits (Wait.lift_ne_none hn)
        thread_holds := fun hw => absurd hw (Wait.lift_ne_holding s.wait)
        callback_waits := fun hn => h.callback_waits (Wait.lift_ne_none hn)
        callback_holds := fun hw => absurd hw (Wait.lift_ne_holding s.cbWait)
        pending_drained := nofun
        armed_buffer := nofun }

theorem EngineInv.hostStore (h : EngineInv s) (elem : BitVec 31) (v : Word) : EngineInv (hostStore elem v s) :=
  { h with mem_wf := Memory.wf_setElement h.mem_wf _ v }

/-- Whichever agent's turn it is. -/
theorem inv_of_runTurn {turn : Turn} {t : State} (hs : EngineInv s) (h : runTurn exec turn s = .next t) :
    EngineInv t := by
  cases turn with
  | host => exact inv_of_contextTurn hs h
  | callback words => exact inv_of_contextTurn (hs.extendCallback words) h
  | shift => exact inv_of_shiftTurn hs h
  | panelDrives v =>
    injection (hs.panelTurn_eq v).symm.trans h with h
    exact h ▸ hs
  | dmaPush =>
    injection h with h
    exact h ▸ hs.dmaPush
  | dmaDone =>
    injection h with h
    exact h ▸ hs.dmaDone
  | irqHandler =>
    injection h with h
    exact h ▸ hs.irqHandler
  | hostStore elem v =>
    injection h with h
    exact h ▸ hs.hostStore elem v

/-- The invariant reads nothing of the schedule (log 3). -/
theorem EngineInv.takeTurn (h : EngineInv s) : EngineInv (takeTurn s).2 := by
  obtain ⟨rest, he⟩ := takeTurn_eq s
  exact he ▸ { h with }

end

/-- Settles O52: the schedule apart, each agent's turn keeps the invariant. -/
theorem stepKeepsInv : Obligations.StepKeepsInv :=
  fun _ _ hs h => inv_of_runTurn hs.takeTurn h

/-! Right after reset (10_state R45), and along every run from there. -/

/-- Settles O51: a loaded machine is idle, unbound and unconfigured; `State.reset` is the one with nothing loaded. -/
theorem invHoldsAtReset : Obligations.InvHoldsAtReset := by
  have loaded : ∀ c prog mem turns cycle, Memory.wf mem → EngineInv (State.loaded c prog mem turns cycle) :=
    fun c prog mem turns cycle hm =>
      { quiescent := Or.inl rfl
        selected_iff := ⟨nofun, fun h => h.elim nofun nofun⟩
        exclusive := nofun
        selected_pixels := nofun
        idle_drained := fun _ => ⟨rfl, rfl, rfl⟩
        armed_ready := nofun
        no_error := fun _ => rfl
        error_code := nofun
        cpc_le := Nat.zero_le _
        thread_waits := fun h => absurd rfl h
        thread_holds := nofun
        callback_waits := fun h => absurd rfl h
        callback_holds := nofun
        fifo_fits := Nat.zero_le _
        rem_le := Nat.le_refl _
        pending_drained := nofun
        configured := nofun
        armed_buffer := nofun
        bound_line := nofun
        rst_high := rfl
        led_follows := (ite_self _).symm
        mem_wf := hm
        panel_wf := Panel.canonical_unknown }
  exact ⟨loaded, loaded Config.standard [] [] [] fairCycle Memory.wf_nil⟩

/-! What INIT and DMAWR leave unchanged (41 R150; 43 R206). -/

@[simp] theorem initSequence_kept (s : State) :
    (initSequence s).dstate = s.dstate ∧ (initSequence s).frameOpen = s.frameOpen ∧
    (initSequence s).tdSrc = s.tdSrc ∧ (initSequence s).tdCount = s.tdCount ∧ (initSequence s).tdRem = s.tdRem ∧
    (initSequence s).cbValid = s.cbValid ∧ (initSequence s).cbFn = s.cbFn ∧ (initSequence s).cbLine = s.cbLine ∧
    (initSequence s).irqPending = s.irqPending ∧ (initSequence s).err = s.err ∧
    (initSequence s).errCode = s.errCode := by
  simp [initSequence, configureDescriptor, initBacklightOn, initDisplayOn, initConfigTable, initBooster, initPowerOn,
    initPowerZero, initResetPulse, initPinArm]

@[simp] theorem initSequence_tdCfg (s : State) : (initSequence s).tdCfg = true := rfl

@[simp] theorem initSequence_fifo (s : State) : (initSequence s).fifo = [] := by
  simp [initSequence, configureDescriptor, initBacklightOn, initDisplayOn]

@[simp] theorem initIdCheck_kept (s : State) :
    (initIdCheck s).dstate = s.dstate ∧ (initIdCheck s).frameOpen = s.frameOpen ∧ (initIdCheck s).tdCfg = s.tdCfg ∧
    (initIdCheck s).tdSrc = s.tdSrc ∧ (initIdCheck s).tdCount = s.tdCount ∧ (initIdCheck s).tdRem = s.tdRem ∧
    (initIdCheck s).cbValid = s.cbValid ∧ (initIdCheck s).cbFn = s.cbFn ∧ (initIdCheck s).cbLine = s.cbLine ∧
    (initIdCheck s).irqPending = s.irqPending ∧ (initIdCheck s).err = s.err ∧
    (initIdCheck s).errCode = s.errCode := by
  obtain ⟨-, e⟩ | ⟨-, r, e⟩ := initIdCheck_cases s
  · simp [e]
  · simp [e]

theorem initIdCheck_fifo {s : State} (h : s.fifo = []) : (initIdCheck s).fifo = [] := by
  obtain ⟨-, e⟩ | ⟨-, r, e⟩ := initIdCheck_cases s
  · simpa [e] using h
  · simp [e]

@[simp] theorem startTransfer_kept (src n : DWord) (s : State) :
    (startTransfer src n s).rst = s.rst ∧ (startTransfer src n s).bl = s.bl ∧ (startTransfer src n s).led = s.led ∧
    (startTransfer src n s).frameOpen = s.frameOpen ∧ (startTransfer src n s).tdCfg = s.tdCfg ∧
    (startTransfer src n s).tdWidth = s.tdWidth ∧ (startTransfer src n s).tdDst = s.tdDst ∧
    (startTransfer src n s).tdDreq = s.tdDreq ∧ (startTransfer src n s).cbValid = s.cbValid ∧
    (startTransfer src n s).cbFn = s.cbFn ∧ (startTransfer src n s).cbLine = s.cbLine ∧
    (startTransfer src n s).irqPending = s.irqPending ∧ (startTransfer src n s).err = s.err ∧
    (startTransfer src n s).errCode = s.errCode ∧ (startTransfer src n s).result = s.result ∧
    (startTransfer src n s).draws = s.draws := by
  simp [startTransfer]

@[simp] theorem startTransfer_fifo (src n : DWord) (s : State) : (startTransfer src n s).fifo = [] := by
  simp [startTransfer]

/-! What a command answers: a check, then its effect (60 R242, R243). -/

/-- A check that raises only violations of the list. -/
def RaisesOnly (l : List Violation) (o : Option Violation) : Prop :=
  ∀ v, o = some v → v ∈ l

section
variable {l : List Violation}

theorem RaisesOnly.or {o p : Option Violation} (ho : RaisesOnly l o) (hp : RaisesOnly l p) : RaisesOnly l (o.or p) := by
  intro v hv
  obtain h | ⟨-, h⟩ := Option.or_eq_some_iff.1 hv
  · exact ho v h
  · exact hp v h

theorem raisesOnly_require {v : Violation} (ok : Bool) (hv : v ∈ l := by simp [canRaise]) :
    RaisesOnly l (require ok v) := by
  cases ok with
  | true => nofun
  | false =>
    intro w hw
    injection hw with hw
    exact hw ▸ hv

theorem raisesOnly_ordinary (s : State) (hb : .busy ∈ l := by simp [canRaise]) (hf : .frame ∈ l := by simp [canRaise]) :
    RaisesOnly l (admission .ordinary s) :=
  (raisesOnly_require _ hb).or (raisesOnly_require _ hf)

theorem raisesOnly_inFrame (s : State) (hb : .busy ∈ l := by simp [canRaise]) (hf : .frame ∈ l := by simp [canRaise]) :
    RaisesOnly l (admission .inFrame s) :=
  (raisesOnly_require _ hb).or (raisesOnly_require _ hf)

end

/-- From `s` to `t` the fault registers stay (10_state R39). -/
def KeepsFaults (s t : State) : Prop :=
  t.err = s.err ∧ t.errCode = s.errCode

/-- A command that is checked against its row of 60 R242, and then acts without a fault. -/
def IsChecked (i : Instr) (s : State) : Prop :=
  ∃ o effect, exec i s = checked o effect s ∧ RaisesOnly (canRaise i) o ∧ KeepsFaults s (effect s)

/-- Every command but PXWORD, which also needs CS low, is a check and an effect. -/
theorem isChecked_of_command {i : Instr} (hi : i.isCommand = true) (hp : ∀ w, i ≠ .pxword w) (s : State) :
    IsChecked i s := by
  unfold IsChecked
  cases i with
  | wridx | wrdat | setreg | setaddr | pxstart | fill =>
    simp only [exec, execWridx, execWrdat, execSetreg, execSetaddr, execPxstart, execFill]
    exact ⟨_, _, rfl, raisesOnly_ordinary s, by simp [KeepsFaults]⟩
  | init =>
    simp only [exec, execInit]
    exact ⟨_, _, rfl, raisesOnly_ordinary s, by simp [KeepsFaults]⟩
  | getreg =>
    simp only [exec, execGetreg]
    exact ⟨_, _, rfl, (raisesOnly_require _).or (raisesOnly_ordinary s), by simp [KeepsFaults]⟩
  | setwin | fillrect | wrpix | setcb =>
    simp only [exec, execSetwin, execFillrect, execWrpix, execSetcb]
    exact ⟨_, _, rfl, (raisesOnly_ordinary s).or (raisesOnly_require _), by simp [KeepsFaults]⟩
  | blit =>
    simp only [exec, execBlit]
    exact ⟨_, _, rfl, ((raisesOnly_ordinary s).or (raisesOnly_require _)).or (raisesOnly_require _),
      by simp [KeepsFaults]⟩
  | dmawr =>
    simp only [exec, execDmawr]
    exact ⟨_, _, rfl, (((raisesOnly_ordinary s).or (raisesOnly_require _)).or (raisesOnly_require _)).or
      (raisesOnly_require _), by simp [KeepsFaults]⟩
  | pxend =>
    simp only [exec, execPxend]
    exact ⟨_, _, rfl, raisesOnly_inFrame s, by simp [KeepsFaults]⟩
  | waitcb =>
    simp only [exec, execWaitcb]
    exact ⟨_, _, rfl, raisesOnly_require _, by simp [KeepsFaults]⟩
  | pxword w => exact absurd rfl (hp w)
  | wIdx | wDat | wRd => cases hi

theorem checked_next (o : Option Violation) (effect : State → State) (s : State) :
    ∃ t, checked o effect s = .next t := by
  cases o with
  | none => exact ⟨_, rfl⟩
  | some v => exact ⟨_, rfl⟩

section
variable {s : State}

/-- A word meets CS low in every open frame (10_state R42.2). -/
theorem EngineInv.execPxword_next (h : EngineInv s) (w : Word) : ∃ t, execPxword w s = .next t := by
  unfold execPxword
  split
  · exact ⟨_, rfl⟩
  · rename_i hn
    have hc : s.cs = .low := h.selected_iff.2 (Or.inl (admission_inFrame_none.1 hn).2)
    exact ⟨_, whileSelected_low hc _⟩

/-- With the invariant every command answers a next state (60 R243). -/
theorem EngineInv.exec_next (h : EngineInv s) {i : Instr} (hi : i.isCommand = true) : ∃ t, exec i s = .next t := by
  by_cases hp : ∃ w, i = .pxword w
  · obtain ⟨w, rfl⟩ := hp
    exact h.execPxword_next w
  · obtain ⟨o, effect, he, -⟩ := isChecked_of_command hi (not_exists.1 hp) s
    exact he ▸ checked_next o effect s

theorem EngineInv.issueCommand_next (h : EngineInv s) (c : Context) : ∃ t, issueCommand exec c s = .next t := by
  unfold issueCommand
  split
  · exact ⟨_, rfl⟩
  · exact ⟨_, rfl⟩
  · rename_i hd
    obtain ⟨t, ht⟩ := h.exec_next (isCommand_of_decodeCommand hd)
    rw [ht]
    exact ⟨_, rfl⟩

theorem EngineInv.contextTurn_next (h : EngineInv s) (c : Context) : ∃ t, contextTurn exec c s = .next t := by
  unfold contextTurn
  split
  · exact h.issueCommand_next c
  · exact ⟨_, rfl⟩
  · exact ⟨_, rfl⟩

/-- The SHIFTER finds words only in a transfer, with CS low and RS high, so it sends a W-DAT (43 R212). -/
theorem EngineInv.shiftTurn_next (h : EngineInv s) : ∃ t, shiftTurn exec s = .next t := by
  unfold shiftTurn
  split
  · exact ⟨_, rfl⟩
  · rename_i v rest hf
    have hc : s.cs = .low := h.selected_of_armed (h.armed_of_fifo (by simp [hf]))
    have hr : s.rs = .high := (h.selected_pixels hc).1
    refine ⟨Machine.shiftOut v { s with fifo := rest }, ?_⟩
    simp [hr, decodeWire_sent_high, exec, execWDat, onWire, whileSelected, hc]

theorem EngineInv.runTurn_next (h : EngineInv s) (turn : Turn) : ∃ t, runTurn exec turn s = .next t := by
  cases turn with
  | host => exact h.contextTurn_next .thread
  | callback words => exact (h.extendCallback words).contextTurn_next .interrupt
  | shift => exact h.shiftTurn_next
  | panelDrives v => exact ⟨s, h.panelTurn_eq v⟩
  | dmaPush => exact ⟨_, rfl⟩
  | dmaDone => exact ⟨_, rfl⟩
  | irqHandler => exact ⟨_, rfl⟩
  | hostStore elem v => exact ⟨_, rfl⟩

/-- From a state with the invariant a step is never a stop (60 R243). -/
theorem EngineInv.step_next (h : EngineInv s) : ∃ t, step s = .next t :=
  h.takeTurn.runTurn_next _

/-- Nor is a run, and the invariant stays with it. -/
theorem EngineInv.reaches (h : EngineInv s) (n : Nat) : ∃ t, Reaches s n t ∧ EngineInv t := by
  induction n generalizing s with
  | zero => exact ⟨s, reaches_zero.2 rfl, h⟩
  | succ n ih =>
    obtain ⟨u, hu⟩ := h.step_next
    obtain ⟨t, hr, ht⟩ := ih (stepKeepsInv s u h hu)
    exact ⟨t, reaches_succ.2 ⟨u, hu, hr⟩, ht⟩

end

/-- Settles O54: the invariant holds at reset, each step keeps it, and with it no step stops. -/
theorem runsNeverStop : Obligations.RunsNeverStop :=
  fun c prog mem turns cycle n hm => (invHoldsAtReset.1 c prog mem turns cycle hm).reaches n

theorem readStatus_s0_resetWith (c : Config) : (State.resetWith c).readStatus .s0 = 0x00000005#32 := by
  cases h : c.hasLedPin <;>
    simp [State.readStatus, State.statusWord, State.ledBit, State.resetWith, h, Lamp.bit, Level.bit, DState.bits]

/-- Settles O46: `State.resetWith` has each value the rule names. -/
theorem resetValues : Obligations.ResetValues := by
  intro c
  exact ⟨rfl, rfl, rfl, rfl, rfl, rfl, rfl, rfl, rfl, rfl, rfl, rfl, rfl, rfl, rfl, rfl, rfl, rfl, rfl, rfl, rfl, rfl,
    readStatus_s0_resetWith c, rfl⟩

/-! The status port (10_state R41). -/

@[simp] theorem Level.bit_getElem (l : Level) : l.bit[0] = decide (l = .high) := by
  cases l <;> rfl

@[simp] theorem Lamp.bit_getElem (l : Lamp) : (Lamp.bit l)[0] = decide (l = .on) := by
  cases l <;> rfl

section
variable (s : State)

@[simp] theorem ledBit_getElem : s.ledBit[0] = (s.cfg.hasLedPin && decide (s.led = .on)) := by
  cases h : s.cfg.hasLedPin <;> simp [State.ledBit, h]

/-- The two bits of `dstate` stand at bits 7:6. -/
theorem statusWord_dstate : s.statusWord.extractLsb' 6 2 = s.dstate.bits := by
  apply BitVec.eq_of_getLsbD_eq
  intro i hi
  simp only [BitVec.getLsbD_extractLsb', State.statusWord, BitVec.getLsbD_append]
  obtain rfl | rfl : i = 0 ∨ i = 1 := by omega
  · simp
  · simp

theorem statusWord_unlisted {k : Nat} (hk : 12 ≤ k) : s.statusWord.getLsbD k = false := by
  simp (disch := omega) only [State.statusWord, BitVec.getLsbD_append, if_neg, BitVec.getLsbD_zero]

theorem DState.toNat_bits (d : DState) :
    d.bits.toNat = (match d with | .idle => 0 | .framed => 1 | .armed => 2 | .completing => 3) := by
  cases d <;> rfl

end

/-- Settles O47: S0 bit by bit from the fields it is put together of, the other registers as they are. -/
theorem statusPortRule : Obligations.StatusPortRule := by
  refine ⟨fun c r => ?_, fun s => ?_⟩
  · cases r with
    | s0 => exact readStatus_s0_resetWith c
    | _ => rfl
  · have bit : ∀ k, (s.readStatus .s0).getLsbD k = s.statusWord.getLsbD k := fun _ => rfl
    refine ⟨?_, ?_, ?_, ?_, ?_, ?_, ?dstate, ?_, ?_, ?_, ?_, fun k hk => statusWord_unlisted s hk, ?code, rfl, rfl, rfl,
      rfl, rfl, ?line, rfl⟩
    case dstate => exact (congrArg BitVec.toNat (statusWord_dstate s)).trans (DState.toNat_bits s.dstate)
    case code => exact BitVec.toNat_setWidth_of_le (by decide)
    case line => exact BitVec.toNat_setWidth_of_le (by decide)
    all_goals
      simp only [bit, State.statusWord, BitVec.getLsbD_append]
      simp

/-! What a step runs (10_state R33; 60 R250). -/

section
variable {run : Instr → State → Host.Outcome State Fault Refusal} {c : Context} {s : State}

theorem issueCommand_of_command {i : Instr} {len : Nat} (hd : decodeCommand (s.wordsOf c) = .command i len) :
    issueCommand run c s =
      match run i s with
      | .next t =>
        .next (if i = .waitcb ∧ s.dstate ≠ .idle ∧ s.frameOpen = false then setWait c .holding t else advance c len t)
      | .fault f => .fault f
      | .refused r => .refused r := by
  simp only [issueCommand, hd]
  cases run i s with
  | next t => simp only [commandReturns_iff, ite_not]
  | fault f => rfl
  | refused r => rfl

theorem issueCommand_of_illegal {why : Illegal} {len : Nat} (hd : decodeCommand (s.wordsOf c) = .illegal why len) :
    issueCommand run c s = .next (advance c len (raise .illegal s)) := by
  simp [issueCommand, hd]

theorem issueCommand_of_nil (hw : s.wordsOf c = []) : issueCommand run c s = .next s := by
  simp [issueCommand, hw, decodeCommand]

theorem contextTurn_of_no_wait (hw : s.waitOf c = .none) : contextTurn run c s = issueCommand run c s := by
  simp [contextTurn, hw]

theorem panelTurn_of_read {v : Word} (hr : s.rs = .high) (hp : readInProgress s = true) :
    panelTurn run v s = run (.wRd v) s := by
  simp [panelTurn, hp, hr, decodeWire_received_high]

theorem panelTurn_of_no_read {v : Word} (hp : readInProgress s = false) : panelTurn run v s = .next s := by
  simp [panelTurn, hp]

theorem readInProgress_iff :
    readInProgress s = true ↔
      s.cfg.readSupport = true ∧ s.cs = .low ∧ s.rs = .high ∧ s.dstate = .idle ∧ s.frameOpen = false := by
  simp [readInProgress, and_assoc]

end

theorem step_host {s : State} {rest : List Turn} (ht : s.turns = .host :: rest) (hw : s.wait = .none) :
    step s = issueCommand exec .thread { s with turns := rest } :=
  (step_of_turn ht).trans (contextTurn_of_no_wait hw)

theorem step_callback {s : State} {rest : List Turn} {words : List Word} (ht : s.turns = .callback words :: rest)
    (hw : s.cbWait = .none) :
    step s = issueCommand exec .interrupt { s with turns := rest, cbProg := s.cbProg ++ words } :=
  (step_of_turn ht).trans (contextTurn_of_no_wait hw)

/-- Settles O6: each turn is `issueCommand` of its context's words, or `panelTurn`, and these are said case by case. -/
theorem stepRunsDecodedCommand : Obligations.StepRunsDecodedCommand := by
  refine ⟨fun s rest ht hw => ⟨fun i len hd => ?_, fun hd => ?_⟩,
    fun s rest words ht hw => ⟨fun i len hd => ?_, fun why len hd => ?_, fun hd => ?_⟩,
    fun s rest v ht => ⟨fun hr hc hrs hd hf => ?_, fun hn => ?_⟩⟩
  · exact (step_host ht hw).trans (issueCommand_of_command hd)
  · exact (step_host ht hw).trans (issueCommand_of_nil hd)
  · exact (step_callback ht hw).trans (issueCommand_of_command hd)
  · exact (step_callback ht hw).trans (issueCommand_of_illegal hd)
  · have nothing : ({ s with turns := rest, cbProg := s.cbProg ++ words } : State).wordsOf .interrupt = [] := hd
    rw [step_callback ht hw, issueCommand_of_nil nothing, hd, (List.append_eq_nil_iff.1 hd).1]
  · exact (step_of_turn ht).trans (panelTurn_of_read hrs (readInProgress_iff.2 ⟨hr, hc, hrs, hd, hf⟩))
  · have hp : readInProgress { s with turns := rest } = false := by
      rw [← Bool.not_eq_true, readInProgress_iff]
      exact hn
    exact (step_of_turn ht).trans (panelTurn_of_no_read hp)

/-! Who writes each register (10_state R31 to R39). -/

theorem checked_faults {l : List Violation} {o : Option Violation} {effect : State → State} {s t : State}
    (ho : RaisesOnly l o) (hk : KeepsFaults s (effect s)) (h : checked o effect s = .next t) :
    KeepsFaults s t ∨ ∃ v ∈ l, t = raise v s := by
  obtain ⟨v, hv, rfl⟩ | ⟨-, rfl⟩ := checked_cases h
  · exact Or.inr ⟨v, ho v hv, rfl⟩
  · exact Or.inl hk

theorem execPxword_faults {w : Word} {s t : State} (h : execPxword w s = .next t) :
    KeepsFaults s t ∨ ∃ v ∈ canRaise (.pxword w), t = raise v s := by
  unfold execPxword at h
  split at h
  · rename_i v hv
    injection h with h
    exact Or.inr ⟨v, raisesOnly_inFrame s (by simp [canRaise]) (by simp [canRaise]) v hv, h.symm⟩
  · obtain ⟨-, rfl⟩ := whileSelected_cases h
    exact Or.inl (by simp [KeepsFaults])

/-- The fault registers stay, or the instruction is rejected with a violation of its row (60 R242, R243). -/
theorem exec_faults {i : Instr} {s t : State} (h : exec i s = .next t) :
    KeepsFaults s t ∨ ∃ v ∈ canRaise i, t = raise v s := by
  cases hi : i.isCommand with
  | true =>
    by_cases hp : ∃ w, i = .pxword w
    · obtain ⟨w, rfl⟩ := hp
      exact execPxword_faults h
    · obtain ⟨o, effect, he, ho, hk⟩ := isChecked_of_command hi (not_exists.1 hp) s
      exact checked_faults ho hk (he ▸ h)
  | false =>
    cases i with
    | wIdx =>
      obtain ⟨-, -, rfl⟩ := execWIdx_cases h
      exact Or.inl ⟨rfl, rfl⟩
    | wDat =>
      obtain ⟨-, -, rfl⟩ := execWDat_cases h
      exact Or.inl ⟨rfl, rfl⟩
    | wRd =>
      obtain ⟨-, -, -, rfl⟩ := execWRd_cases h
      exact Or.inl ⟨rfl, rfl⟩
    | _ => cases hi

section
variable {i : Instr} {s t : State}

/-- The output pins and the descriptor's fixed part are INIT's. -/
theorem Executes.outputs_kept (h : Executes s i t) (hi : i ≠ .init) :
    t.rst = s.rst ∧ t.bl = s.bl ∧ t.led = s.led ∧ t.tdCfg = s.tdCfg ∧ t.tdWidth = s.tdWidth ∧ t.tdDst = s.tdDst ∧
      t.tdDreq = s.tdDreq := by
  cases h with
  | init => exact absurd rfl hi
  | _ => simp

/-- The transfer is DMAWR's. -/
theorem Executes.transfer_kept (h : Executes s i t) (hi : ∀ src n, i ≠ .dmawr src n) :
    t.dstate = s.dstate ∧ t.tdSrc = s.tdSrc ∧ t.tdCount = s.tdCount ∧ t.tdRem = s.tdRem := by
  cases h with
  | dmawr => exact absurd rfl (hi _ _)
  | _ => simp

/-- The binding is SETCB's. -/
theorem Executes.binding_kept (h : Executes s i t) (hi : ∀ line fn, i ≠ .setcb line fn) :
    t.cbValid = s.cbValid ∧ t.cbFn = s.cbFn ∧ t.cbLine = s.cbLine := by
  cases h with
  | setcb => exact absurd rfl (hi _ _)
  | _ => simp

/-- `frame_open` is PXSTART's and PXEND's. -/
theorem Executes.frameOpen_kept (h : Executes s i t) (hs : i ≠ .pxstart) (he : i ≠ .pxend) :
    t.frameOpen = s.frameOpen := by
  cases h with
  | pxstart => exact absurd rfl hs
  | pxend => exact absurd rfl he
  | _ => simp

/-- `result` is GETREG's and INIT's, the reads that draw a word. -/
theorem Executes.result_kept (h : Executes s i t) (hg : ∀ a, i ≠ .getreg a) (hi : i ≠ .init) :
    t.result = s.result ∧ t.draws = s.draws := by
  cases h with
  | init => exact absurd rfl hi
  | getreg => exact absurd rfl (hg _)
  | _ => simp

/-- CS is driven by the instructions of `wireUse` alone. -/
theorem Executes.cs_kept (h : Executes s i t) (hi : (wireUse i).cs = false) : t.cs = s.cs := by
  cases h with
  | rejected | pxword => simp
  | setcb | waitcb | wIdx | wDat | wRd => rfl
  | _ => cases hi

theorem Executes.rs_kept (h : Executes s i t) (hi : (wireUse i).rs = false) : t.rs = s.rs := by
  cases h with
  | rejected | pxword | pxend => simp
  | setcb | waitcb | wIdx | wDat | wRd => rfl
  | _ => cases hi

theorem Executes.fifo_kept (h : Executes s i t) (hi : (wireUse i).fifo = false) : t.fifo = s.fifo := by
  cases h with
  | rejected | pxend => simp
  | setcb | waitcb | wIdx | wDat | wRd => rfl
  | _ => cases hi

/-- A blocking command has shifted out every word when it returns (43 R210). -/
theorem Executes.fifo_kept_or_empty (h : Executes s i t) : t.fifo = s.fifo ∨ t.fifo = [] := by
  cases h with
  | setaddr => exact Or.inr (writeRegisters_pins (by simp) s).2.2
  | init => exact Or.inr (initIdCheck_fifo (initSequence_fifo s))
  | _ => simp

theorem Executes.irqPending_kept (h : Executes s i t) : t.irqPending = s.irqPending := by
  cases h <;> simp

end

/-- Settles O49, one law for each group of registers. -/
theorem onlyNamedWriters : Obligations.OnlyNamedWriters := by
  intro i s t h
  have he := executes_of_exec h
  exact ⟨he.outputs_kept, he.transfer_kept, he.binding_kept, he.frameOpen_kept, he.result_kept, he.cs_kept, he.rs_kept,
    he.fifo_kept, he.fifo_kept_or_empty, he.irqPending_kept, exec_faults h⟩

/-! The binding and the descriptor under every agent's step (10_state R36; 43 R208, R219). -/

/-- From `s` to `t` the parameters and the stream stay, a valid binding and a configured descriptor stay so, and in a
transfer the binding and the descriptor's source and count stay. -/
def KeepsBinding (s t : State) : Prop :=
  t.cfg = s.cfg ∧ t.prog = s.prog ∧ (s.cbValid = true → t.cbValid = true) ∧ (s.tdCfg = true → t.tdCfg = true) ∧
  (s.dstate = .armed → t.cbValid = s.cbValid ∧ t.cbFn = s.cbFn ∧ t.cbLine = s.cbLine ∧ t.tdSrc = s.tdSrc ∧
    t.tdCount = s.tdCount)

section
variable {s t : State}

theorem KeepsBinding.refl (s : State) : KeepsBinding s s :=
  ⟨rfl, rfl, id, id, fun _ => ⟨rfl, rfl, rfl, rfl, rfl⟩⟩

theorem KeepsBinding.of_idle (hd : s.dstate = .idle) (hc : t.cfg = s.cfg) (hp : t.prog = s.prog)
    (hb : s.cbValid = true → t.cbValid = true) (ht : s.tdCfg = true → t.tdCfg = true) : KeepsBinding s t :=
  ⟨hc, hp, hb, ht, fun ha => absurd (ha.symm.trans hd) nofun⟩

/-- The commands that write the binding or the descriptor are admitted in `Idle` only (60 R245). -/
theorem Executes.keepsBinding {i : Instr} (h : Executes s i t) : KeepsBinding s t := by
  obtain ⟨hcfg, hprog, -⟩ := h.keepsInputs
  cases h with
  | dmawr _ _ hd => exact .of_idle hd hcfg hprog (by simp) (by simp)
  | setcb _ _ hd => exact .of_idle hd hcfg hprog (fun _ => rfl) id
  | init hd => exact .of_idle hd hcfg hprog (by simp) (by simp)
  | _ => simp [KeepsBinding]

@[simp] theorem keepsBinding_advance {c : Context} {len : Nat} :
    KeepsBinding s (advance c len t) ↔ KeepsBinding s t := by
  simp [KeepsBinding]

@[simp] theorem keepsBinding_setWait {c : Context} {w : Wait} : KeepsBinding s (setWait c w t) ↔ KeepsBinding s t := by
  simp [KeepsBinding]

theorem keepsBinding_of_exec {i : Instr} (h : exec i s = .next t) : KeepsBinding s t :=
  (executes_of_exec h).keepsBinding

theorem keepsBinding_of_contextTurn {c : Context} (h : contextTurn exec c s = .next t) : KeepsBinding s t := by
  obtain ⟨-, h⟩ | ⟨-, -, rfl⟩ | ⟨-, -, rfl⟩ := contextTurn_cases h
  · obtain ⟨-, rfl⟩ | ⟨_, len, -, rfl⟩ | ⟨i, len, u, -, hu, rfl⟩ := issueCommand_cases h
    · exact .refl t
    · exact keepsBinding_advance.2 (.refl s)
    · have hu := keepsBinding_of_exec hu
      split
      · exact keepsBinding_advance.2 hu
      · exact keepsBinding_setWait.2 hu
  · exact .refl t
  · simpa [endWait] using KeepsBinding.refl s

theorem keepsBinding_of_shiftTurn (h : shiftTurn exec s = .next t) : KeepsBinding s t := by
  obtain ⟨-, rfl⟩ | ⟨v, rest, -, ⟨i, -, h⟩ | ⟨-, rfl⟩⟩ := shiftTurn_cases h
  · exact .refl t
  · exact keepsBinding_of_exec (s := { s with fifo := rest }) h
  · exact .refl s

theorem keepsBinding_of_panelTurn {v : Word} (h : panelTurn exec v s = .next t) : KeepsBinding s t := by
  unfold panelTurn at h
  split at h
  · split at h
    · exact keepsBinding_of_exec h
    · injection h with h
      exact h ▸ .refl s
  · injection h with h
    exact h ▸ .refl s

theorem keepsBinding_dmaPush (s : State) : KeepsBinding s (dmaPush s) := by
  unfold dmaPush
  split <;> exact .refl s

theorem keepsBinding_dmaDone (s : State) : KeepsBinding s (dmaDone s) := by
  unfold dmaDone
  split <;> exact .refl s

theorem keepsBinding_irqHandler (s : State) : KeepsBinding s (irqHandler s) := by
  cases hp : s.irqPending with
  | false =>
    rw [irqHandler_of_not_pending hp]
    exact .refl s
  | true =>
    rw [irqHandler_of_pending hp]
    exact .refl s

theorem keepsBinding_of_runTurn {turn : Turn} (h : runTurn exec turn s = .next t) : KeepsBinding s t := by
  cases turn with
  | host => exact keepsBinding_of_contextTurn h
  | callback words => exact keepsBinding_of_contextTurn (s := extendCallback words s) h
  | shift => exact keepsBinding_of_shiftTurn h
  | panelDrives v => exact keepsBinding_of_panelTurn h
  | dmaPush =>
    injection h with h
    exact h ▸ keepsBinding_dmaPush s
  | dmaDone =>
    injection h with h
    exact h ▸ keepsBinding_dmaDone s
  | irqHandler =>
    injection h with h
    exact h ▸ keepsBinding_irqHandler s
  | hostStore elem v =>
    injection h with h
    exact h ▸ .refl s

end

/-- Settles O50: no agent but the HOST through a command writes what is named, and the commands that do find `Idle`. -/
theorem bindingAndDescriptorStable : Obligations.BindingAndDescriptorStable := by
  intro s t h
  obtain ⟨rest, he⟩ := takeTurn_eq s
  rw [step, he] at h
  exact keepsBinding_of_runTurn (s := { s with turns := rest }) h

end Sys2Proof.Machine
end

section
/-!
PROOFS. The family of 20_memory: the frame shapes of R71, kept by every agent's step; the far end's laws for each
word it consumes (R82 to R87); where the next pixel goes (R85); the HOST's own store (R76).
-/

namespace Sys2Proof.Machine

/-! The frames of a trace, read event by event (00_scope R13, 20_memory R71). -/

/-- The frames after further events. -/
def FrameScan.read (f : FrameScan) (events : List Event) : FrameScan :=
  events.foldl FrameScan.event f

/-- The closed frames are shaped, an open one is a data frame so far, and CS and RS stand at `cs` and `rs`. -/
structure FrameScan.ShapedAt (cs rs : Level) (f : FrameScan) : Prop where
  closed : ∀ g ∈ f.closed, g.shaped = true
  cs_eq : f.cs = cs
  rs_eq : f.rs = rs
  open_data : cs = .low → f.level = .high ∧ ∀ w ∈ f.words, ∃ d, w = .sent d

section
variable {f : FrameScan} {cs rs : Level}

@[simp] theorem FrameScan.read_nil : f.read [] = f := rfl

@[simp] theorem FrameScan.read_cons (e : Event) (rest : List Event) : f.read (e :: rest) = (f.event e).read rest := rfl

@[simp] theorem FrameScan.read_append (a b : List Event) : f.read (a ++ b) = (f.read a).read b :=
  List.foldl_append

/-- The frames of a trace that gained events are those after the events. -/
theorem scanOf_append (events older : List Event) : scanOf (events.reverse ++ older) = (scanOf older).read events := by
  simp [scanOf, FrameScan.read, List.foldr_append]

theorem frames_trace (s : State) : frames s.trace = (scanOf s.traceRev).closed.reverse := by
  rw [frames, State.trace, List.foldl_reverse]
  rfl

@[simp] theorem FrameScan.event_rst (l : Level) : f.event (.pin .rst l) = f := rfl

@[simp] theorem FrameScan.event_lamp (p : LampPin) (l : Lamp) : f.event (.lamp p l) = f := rfl

@[simp] theorem FrameScan.event_delay (ms : Nat) : f.event (.delay ms) = f := rfl

theorem FrameScan.event_of_offWire {e : Event} (he : e.offWire = true) : f.event e = f := by
  cases e with
  | pin p l =>
    cases p with
    | rst => rfl
    | cs => cases he
    | rs => cases he
  | tx => cases he
  | rx => cases he
  | _ => rfl

/-- RS is driven between frames. -/
theorem FrameScan.ShapedAt.driveRs (h : f.ShapedAt .high rs) (l : Level) : (f.event (.pin .rs l)).ShapedAt .high l :=
  ⟨h.closed, h.cs_eq, rfl, nofun⟩

/-- A frame opened with RS high is a data frame so far. -/
theorem FrameScan.ShapedAt.select (h : f.ShapedAt .high .high) : (f.event (.pin .cs .low)).ShapedAt .low .high := by
  have e : f.event (.pin .cs .low) = { f with cs := .low, level := f.rs, words := [] } := by
    simp [FrameScan.event, h.cs_eq]
  rw [e]
  exact ⟨h.closed, rfl, h.rs_eq, fun _ => ⟨h.rs_eq, nofun⟩⟩

/-- A data word goes on with a data frame. -/
theorem FrameScan.ShapedAt.sendData (h : f.ShapedAt .low rs) (w : Word) : (f.event (.tx .high w)).ShapedAt .low rs where
  closed := h.closed
  cs_eq := h.cs_eq
  rs_eq := h.rs_eq
  open_data := fun _ => ⟨rfl, fun v hv => by
    obtain rfl | hv := List.mem_cons.1 hv
    · exact ⟨w, rfl⟩
    · exact (h.open_data rfl).2 v hv⟩

/-- Words sent with RS high are a data frame (20_memory R71). -/
theorem Frame.shaped_data {words : List FrameWord} (h : ∀ w ∈ words, ∃ d, w = .sent d) :
    (Frame.mk .high words).shaped = true := by
  unfold Frame.shaped
  split
  · rename_i hl _
    cases hl
  · rfl
  · refine List.all_eq_true.2 fun w hw => ?_
    obtain ⟨d, rfl⟩ := h w hw
    rfl
  · rename_i hl _
    cases hl

/-- An open data frame closes as one; with none open nothing closes. -/
theorem FrameScan.ShapedAt.deselect (h : f.ShapedAt cs rs) : (f.event (.pin .cs .high)).ShapedAt .high rs := by
  cases cs with
  | high =>
    have e : f.event (.pin .cs .high) = f := by simp [FrameScan.event, h.cs_eq]
    rwa [e]
  | low =>
    obtain ⟨hl, hw⟩ := h.open_data rfl
    have e : f.event (.pin .cs .high) =
        { f with cs := .high, words := [], closed := ⟨.high, f.words.reverse⟩ :: f.closed } := by
      simp [FrameScan.event, h.cs_eq, hl]
    rw [e]
    refine ⟨fun g hg => ?_, rfl, h.rs_eq, nofun⟩
    obtain rfl | hg := List.mem_cons.1 hg
    · exact Frame.shaped_data (by simpa using hw)
    · exact h.closed g hg

/-- One frame more, and CS is high again. -/
theorem FrameScan.ShapedAt.closeFrame (h : f.ShapedAt cs rs) {g : Frame} (hg : g.shaped = true) {t : FrameScan}
    {l : Level} (hc : t.cs = .high) (hr : t.rs = l) (ht : t.closed = g :: f.closed) : t.ShapedAt .high l :=
  ⟨by rw [ht]; exact List.forall_mem_cons.2 ⟨hg, h.closed⟩, hc, hr, nofun⟩

theorem Frame.shaped_index (a : Byte) : (Frame.mk .low [.sent (indexWord a)]).shaped = true := by
  simp [Frame.shaped]

/-- WRIDX's frame is an index frame: one word, its upper byte zero (30_encoding R101). -/
theorem FrameScan.ShapedAt.indexFrame (h : f.ShapedAt .high rs) (a : Byte) :
    (f.read (indexFrameEvents a)).ShapedAt .high .low := by
  refine h.closeFrame (Frame.shaped_index a) ?_ ?_ ?_ <;> simp [indexFrameEvents, FrameScan.event, h.cs_eq]

theorem FrameScan.ShapedAt.dataFrame (h : f.ShapedAt .high rs) (v : Word) :
    (f.read (dataFrameEvents v)).ShapedAt .high .high :=
  ((h.driveRs .high).select.sendData v).deselect

theorem FrameScan.ShapedAt.register (h : f.ShapedAt .high rs) (a : Byte) (v : Word) :
    (f.read (registerEvents a v)).ShapedAt .high .high := by
  rw [registerEvents, read_append]
  exact (h.indexFrame a).dataFrame v

theorem FrameScan.ShapedAt.table (h : f.ShapedAt .high .high) (table : List (Byte × Word)) :
    (f.read (tableEvents table)).ShapedAt .high .high := by
  induction table generalizing f with
  | nil => exact h
  | cons p rest ih =>
    rw [show tableEvents (p :: rest) = registerEvents p.1 p.2 ++ tableEvents rest from rfl, read_append]
    exact ih (h.register p.1 p.2)

/-- A table that is not empty leaves RS high wherever it stood. -/
theorem FrameScan.ShapedAt.table_cons (h : f.ShapedAt .high rs) {table : List (Byte × Word)} (hn : table ≠ []) :
    (f.read (tableEvents table)).ShapedAt .high .high := by
  cases table with
  | nil => exact absurd rfl hn
  | cons p rest =>
    rw [show tableEvents (p :: rest) = registerEvents p.1 p.2 ++ tableEvents rest from rfl, read_append]
    exact (h.register p.1 p.2).table rest

/-- GETREG's second frame is a read frame of one word (40_register_protocol R133). -/
theorem FrameScan.ShapedAt.readFrames (h : f.ShapedAt .high rs) (a : Byte) (v : Word) :
    (f.read (readEvents a v)).ShapedAt .high .high := by
  have index := h.indexFrame a
  rw [readEvents, read_append]
  refine index.closeFrame (g := ⟨.high, [.received v]⟩) rfl ?_ ?_ ?_ <;> simp [FrameScan.event, index.cs_eq]

theorem FrameScan.ShapedAt.openBurst (h : f.ShapedAt .high rs) (c : Config) :
    (f.read (openBurstEvents c)).ShapedAt .low .high := by
  rw [openBurstEvents, read_append]
  exact ((h.indexFrame _).driveRs .high).select

/-- What may happen in a transfer goes on with a data frame: its words are sent as data (43_pixel_transfer R215). -/
theorem FrameScan.ShapedAt.duringTransfer (h : f.ShapedAt .low rs) {events : List Event}
    (he : ∀ e ∈ events, e.duringTransfer = true) : (f.read events).ShapedAt .low rs := by
  induction events generalizing f with
  | nil => exact h
  | cons e rest ih =>
    have step : (f.event e).ShapedAt .low rs := by
      have he : e.duringTransfer = true := he e (by simp)
      cases e with
      | tx r w =>
        cases r with
        | high => exact h.sendData w
        | low => cases he
      | memRead | irqRaise | violation => exact h
      | _ => cases he
    exact ih step fun d hd => he d (by simp [hd])

theorem FrameScan.ShapedAt.burst (h : f.ShapedAt .high rs) (c : Config) {body : List Event}
    (hb : ∀ e ∈ body, e.duringTransfer = true) : (f.read (burstEvents c body)).ShapedAt .high .high := by
  rw [burstEvents, read_append, read_append]
  exact ((h.openBurst c).duringTransfer hb).deselect

theorem duringTransfer_of_mem_bufferEvents {mem : List Host.Cell} {src n : Nat} {e : Event}
    (h : e ∈ bufferEvents mem src n) : e.duringTransfer = true := by
  obtain ⟨i, -, hi⟩ := List.mem_flatMap.1 h
  obtain rfl | rfl : e = _ ∨ e = _ := by simpa using hi
  · rfl
  · rfl

theorem FrameScan.ShapedAt.fillrect (hf : f.ShapedAt .high rs) (c : Config) (x y w h color : Word) :
    (f.read (fillrectEvents c x y w h color)).ShapedAt .high .high := by
  rw [fillrectEvents, read_append]
  refine (hf.table_cons (by simp [windowTable])).burst c fun e he => ?_
  obtain rfl := (List.mem_replicate.1 he).2
  rfl

@[simp] theorem FrameScan.read_ledEvents (c : Config) (l : Lamp) : f.read (ledEvents c l) = f := by
  unfold ledEvents
  split <;> rfl

/-- Stages 1 and 2 close a frame that was open, and end with CS high and RS low (41_init_sequencer R151, R153). -/
theorem FrameScan.ShapedAt.initPins (h : f.ShapedAt cs rs) (c : Config) :
    (f.read (initPinEvents c)).ShapedAt .high .low := by
  have e : f.read (initPinEvents c) = (f.event (.pin .cs .high)).event (.pin .rs .low) := by
    simp [initPinEvents]
  exact e ▸ h.deselect.driveRs .low

/-- Stages 3 to 7 are tables of register writes with delays between them (41_init_sequencer R154 to R158). -/
theorem FrameScan.ShapedAt.initTables (h : f.ShapedAt .high rs) (c : Config) :
    (f.read (initTableEvents c)).ShapedAt .high .high := by
  have zero := h.table_cons (table := c.idx.powerCtrl.map (fun i => (i, 0#16))) (by simp [RegMap.powerCtrl])
  have power := (zero.table c.init.pwrOn).register c.idx.powerCtrl2 c.init.boost
  have tables := (power.table c.init.cfg).table (c.idx.gamma.zip c.init.gamma)
  simpa [initTableEvents] using tables.register c.idx.dispCtrl c.init.dispOn

theorem FrameScan.ShapedAt.init (h : f.ShapedAt cs rs) (c : Config) : (f.read (initEvents c)).ShapedAt .high .high := by
  have tables := (h.initPins c).initTables c
  simpa [initEvents] using tables

end

/-! The frame shapes under an instruction. -/

section
variable {s t : State}

theorem framesShaped_iff : FramesShaped s ↔ (scanOf s.traceRev).ShapedAt s.cs s.rs := by
  constructor
  · exact fun h => ⟨by simpa [frames_trace] using h.closed, h.cs_read, h.rs_read, h.open_data⟩
  · exact fun h => ⟨by simpa [frames_trace] using h.closed, h.cs_eq, h.rs_eq, h.open_data⟩

/-- A state whose trace gained events that leave the frames shaped and the latches where they stand. -/
theorem FramesShaped.of_read {events : List Event} (ht : t.traceRev = events.reverse ++ s.traceRev)
    (h : ((scanOf s.traceRev).read events).ShapedAt t.cs t.rs) : FramesShaped t := by
  rw [framesShaped_iff, ht, scanOf_append]
  exact h

theorem FramesShaped.scan (h : FramesShaped s) : (scanOf s.traceRev).ShapedAt s.cs s.rs :=
  framesShaped_iff.1 h

theorem FramesShaped.scan_high (h : FramesShaped s) (hc : s.cs = .high) :
    (scanOf s.traceRev).ShapedAt .high s.rs :=
  hc ▸ h.scan

/-- One event off the wire leaves the frames as they are. -/
theorem FramesShaped.of_event {e : Event} (h : FramesShaped s) (ht : t.traceRev = e :: s.traceRev)
    (he : e.offWire = true) (hc : t.cs = s.cs) (hr : t.rs = s.rs) : FramesShaped t := by
  refine .of_read (events := [e]) ht ?_
  rw [FrameScan.read_cons, FrameScan.event_of_offWire he, hc, hr]
  exact h.scan

theorem FramesShaped.raise (h : FramesShaped s) (v : Violation) : FramesShaped (raise v s) :=
  h.of_event rfl rfl rfl rfl

theorem FramesShaped.indexFrame (h : FramesShaped s) (hr : Ready s) (hc : s.cs = .high) (a : Byte) :
    FramesShaped (indexFrame a s) := by
  rw [indexFrame_withEvents hr.drained]
  exact .of_read rfl ((h.scan_high hc).indexFrame a)

theorem FramesShaped.dataFrame (h : FramesShaped s) (hr : Ready s) (hc : s.cs = .high) (v : Word) :
    FramesShaped (dataFrame v s) := by
  rw [dataFrame_withEvents hr.drained]
  exact .of_read rfl ((h.scan_high hc).dataFrame v)

theorem FramesShaped.writeRegisters (h : FramesShaped s) (hr : Ready s) (hc : s.cs = .high)
    {table : List (Byte × Word)} (hn : table ≠ []) : FramesShaped (writeRegisters table s) := by
  rw [writeRegisters_withEvents hr.drained hn]
  exact .of_read rfl ((h.scan_high hc).table_cons hn)

theorem FramesShaped.setWindow (h : FramesShaped s) (hr : Ready s) (hc : s.cs = .high) (win : Window) :
    FramesShaped (setWindow win s) :=
  h.writeRegisters hr hc (by simp)

/-- Whatever `result` takes. -/
theorem FramesShaped.readRegister (h : FramesShaped s) (hr : Ready s) (hc : s.cs = .high) (a : Byte) (result : DWord) :
    FramesShaped { readRegister a s with result := result } := by
  rw [readRegister_withEvents hr.drained]
  exact .of_read rfl ((h.scan_high hc).readFrames a _)

/-- PXSTART leaves a data frame open. -/
theorem FramesShaped.openFrame (h : FramesShaped s) (hr : Ready s) (hc : s.cs = .high) :
    FramesShaped { openBurst s with frameOpen := true } := by
  rw [openBurst_withEvents hr.drained]
  exact .of_read rfl ((h.scan_high hc).openBurst s.cfg)

/-- So does DMAWR; `DMA_START` is off the wire (43_pixel_transfer R206). -/
theorem FramesShaped.startTransfer (h : FramesShaped s) (hr : Ready s) (hc : s.cs = .high) (src n : DWord) :
    FramesShaped (startTransfer src n s) :=
  (h.openFrame hr hc).of_event rfl rfl rfl rfl

theorem FramesShaped.sendBuffer (h : FramesShaped s) (hr : Ready s) (hc : s.cs = .high) (src : DWord) (n : Nat) :
    FramesShaped (sendBuffer src n s) := by
  rw [sendBuffer_withEvents hr.drained]
  exact .of_read rfl ((h.scan_high hc).burst s.cfg fun _ => duringTransfer_of_mem_bufferEvents)

theorem FramesShaped.fillRectangle (hs : FramesShaped s) (hr : Ready s) (hc : s.cs = .high) (x y w h color : Word) :
    FramesShaped (fillRectangle x y w h color s) := by
  rw [fillRectangle_withEvents hr.drained]
  exact .of_read rfl ((hs.scan_high hc).fillrect s.cfg x y w h color)

theorem FramesShaped.initSequence (h : FramesShaped s) (hr : Ready s) : FramesShaped (initSequence s) := by
  rw [initSequence_withEvents hr.drained]
  exact .of_read rfl (h.scan.init s.cfg)

theorem FramesShaped.initIdCheck (h : FramesShaped s) (hr : Ready s) (hc : s.cs = .high) :
    FramesShaped (initIdCheck s) := by
  obtain ⟨-, e⟩ | ⟨-, r, e⟩ := initIdCheck_cases s
  · exact e ▸ { h with }
  · exact e ▸ h.readRegister hr hc _ r

theorem FramesShaped.init (h : FramesShaped s) (hr : Ready s) :
    FramesShaped (Machine.initIdCheck (Machine.initSequence s)) :=
  (h.initSequence hr).initIdCheck hr.initSequence (by rw [initSequence_withEvents hr.drained])

/-- A word sent with CS low and RS high goes on with the data frame. -/
theorem FramesShaped.shiftOut (h : FramesShaped s) (hc : s.cs = .low) (hr : s.rs = .high) (v : Word) :
    FramesShaped (shiftOut v s) := by
  have sent := (hc ▸ h.scan : (scanOf s.traceRev).ShapedAt .low s.rs).sendData v
  refine .of_read (events := [.tx s.rs v]) rfl ?_
  simpa [hc, hr] using sent

theorem FramesShaped.closeFrame (h : FramesShaped s) : FramesShaped { closeBurst s with frameOpen := false } :=
  .of_read (events := [.pin .cs .high]) rfl h.scan.deselect

/-- A command opens whole frames only from CS high and a drained FIFO, or adds a data word to the open one. -/
theorem Executes.framesShaped {i : Instr} (h : Executes s i t) (hi : EngineInv s) (hc : i.isCommand = true)
    (hs : FramesShaped s) : FramesShaped t := by
  have ready : s.dstate = .idle → s.frameOpen = false → Ready s := hi.ready
  have high : s.dstate = .idle → s.frameOpen = false → s.cs = .high := hi.idleDeselected
  cases h with
  | rejected _ v => exact hs.raise v
  | wridx a hd hf => exact hs.indexFrame (ready hd hf) (high hd hf) a
  | wrdat v hd hf => exact hs.dataFrame (ready hd hf) (high hd hf) v
  | setreg a v hd hf => exact hs.writeRegisters (ready hd hf) (high hd hf) (table := [(a, v)]) (by simp)
  | getreg a hd hf => exact hs.readRegister (ready hd hf) (high hd hf) a _
  | setwin _ _ _ _ hd hf => exact hs.setWindow (ready hd hf) (high hd hf) _
  | setaddr _ _ hd hf => exact hs.writeRegisters (ready hd hf) (high hd hf) (by simp)
  | pxstart hd hf => exact hs.openFrame (ready hd hf) (high hd hf)
  | pxword w hd _ hl => exact tx_of_drained (hi.idle_drained hd).1 w ▸ hs.shiftOut hl (hi.selected_pixels hl).1 w
  | pxend => exact hs.closeFrame
  | wrpix src n hd hf => exact hs.sendBuffer (ready hd hf) (high hd hf) src _
  | dmawr src n hd hf => exact hs.startTransfer (ready hd hf) (high hd hf) src n
  | fill color w h hd hf => exact hs.fillRectangle (ready hd hf) (high hd hf) _ _ w h color
  | fillrect x y w h color hd hf => exact hs.fillRectangle (ready hd hf) (high hd hf) x y w h color
  | blit x y w h src hd hf =>
    have windowed := hs.setWindow (ready hd hf) (high hd hf) (rectWindow x y w h)
    exact windowed.sendBuffer ((ready hd hf).setWindow _) (setWindow_pins _ s).1 src _
  | init hd hf => exact hs.init (ready hd hf)
  | setcb => exact { hs with }
  | waitcb => exact hs
  | wIdx | wDat | wRd => cases hc

/-! The frame shapes under every agent's turn. -/

@[simp] theorem framesShaped_advance {c : Context} {len : Nat} : FramesShaped (advance c len s) ↔ FramesShaped s := by
  simp [framesShaped_iff]

@[simp] theorem framesShaped_setWait {c : Context} {w : Wait} : FramesShaped (setWait c w s) ↔ FramesShaped s := by
  simp [framesShaped_iff]

theorem framesShaped_of_issueCommand {c : Context} (hi : EngineInv s) (hs : FramesShaped s)
    (h : issueCommand exec c s = .next t) : FramesShaped t := by
  obtain ⟨-, rfl⟩ | ⟨_, len, -, rfl⟩ | ⟨i, len, u, hd, hu, rfl⟩ := issueCommand_cases h
  · exact hs
  · exact framesShaped_advance.2 (hs.raise .illegal)
  · have hu := (executes_of_exec hu).framesShaped hi (isCommand_of_decodeCommand hd) hs
    split
    · exact framesShaped_advance.2 hu
    · exact framesShaped_setWait.2 hu

theorem framesShaped_of_contextTurn {c : Context} (hi : EngineInv s) (hs : FramesShaped s)
    (h : contextTurn exec c s = .next t) : FramesShaped t := by
  obtain ⟨-, h⟩ | ⟨-, -, rfl⟩ | ⟨-, -, rfl⟩ := contextTurn_cases h
  · exact framesShaped_of_issueCommand hi hs h
  · exact hs
  · simpa [endWait] using hs

/-- With the invariant the SHIFTER's turn passes, or sends the FIFO's head while CS is low and RS high (43 R212). -/
theorem EngineInv.shiftTurn_cases (hi : EngineInv s) (h : shiftTurn exec s = .next t) :
    t = s ∨ ∃ v rest, s.fifo = v :: rest ∧ s.cs = .low ∧ s.rs = .high ∧
      t = Machine.shiftOut v { s with fifo := rest } := by
  obtain ⟨-, rfl⟩ | ⟨v, rest, hf, sent⟩ := Machine.shiftTurn_cases h
  · exact Or.inl rfl
  · have hc : s.cs = .low := hi.selected_of_armed (hi.armed_of_fifo (by simp [hf]))
    have hr : s.rs = .high := (hi.selected_pixels hc).1
    refine Or.inr ⟨v, rest, hf, hc, hr, ?_⟩
    obtain ⟨i, hd, he⟩ | ⟨-, rfl⟩ := sent
    · rw [hr, decodeWire_sent_high] at hd
      injection hd with hd
      subst hd
      exact (execWDat_cases he).2.2
    · rfl

theorem framesShaped_of_shiftTurn (hi : EngineInv s) (hs : FramesShaped s) (h : shiftTurn exec s = .next t) :
    FramesShaped t := by
  obtain rfl | ⟨v, rest, -, hc, hr, rfl⟩ := hi.shiftTurn_cases h
  · exact hs
  · exact FramesShaped.shiftOut (s := { s with fifo := rest }) { hs with } hc hr v

theorem FramesShaped.dmaPush (h : FramesShaped s) : FramesShaped (dmaPush s) := by
  unfold Machine.dmaPush
  split
  · exact h.of_event (e := .memRead (dmaAddress s) (memReadWord (dmaAddress s) s)) rfl rfl rfl rfl
  · exact h

theorem FramesShaped.dmaDone (h : FramesShaped s) : FramesShaped (dmaDone s) := by
  unfold Machine.dmaDone
  split
  · exact h.of_event (e := .irqRaise s.cbLine) rfl rfl rfl rfl
  · exact h

/-- The handler closes the transfer's data frame (43 R214). -/
theorem FramesShaped.irqHandler (h : FramesShaped s) : FramesShaped (irqHandler s) := by
  cases hp : s.irqPending with
  | false => rwa [irqHandler_of_not_pending hp]
  | true =>
    rw [irqHandler_of_pending hp]
    exact .of_read (events := [.pin .cs .high, .irqClear s.cbLine, .callback s.cbFn]) rfl h.scan.deselect

/-- Whichever agent's turn it is; the PANEL's passes, so no bare word is received. -/
theorem framesShaped_of_runTurn {turn : Turn} (hi : EngineInv s) (hs : FramesShaped s)
    (h : runTurn exec turn s = .next t) : FramesShaped t := by
  cases turn with
  | host => exact framesShaped_of_contextTurn hi hs h
  | callback words => exact framesShaped_of_contextTurn (hi.extendCallback words) { hs with } h
  | shift => exact framesShaped_of_shiftTurn hi hs h
  | panelDrives v =>
    injection (hi.panelTurn_eq v).symm.trans h with h
    exact h ▸ hs
  | dmaPush =>
    injection h with h
    exact h ▸ hs.dmaPush
  | dmaDone =>
    injection h with h
    exact h ▸ hs.dmaDone
  | irqHandler =>
    injection h with h
    exact h ▸ hs.irqHandler
  | hostStore elem v =>
    injection h with h
    exact h ▸ { hs with }

end

/-- Settles O56: the schedule apart, each agent's turn keeps the frame shapes. -/
theorem stepKeepsFrameShapes : Obligations.StepKeepsFrameShapes := by
  intro s t hi hs h
  obtain ⟨rest, he⟩ := takeTurn_eq s
  have scheduled : FramesShaped (takeTurn s).2 := he ▸ { hs with }
  exact framesShaped_of_runTurn hi.takeTurn scheduled h

/-! The far end's laws for each word it consumes (20_memory R82 to R87). -/

section
variable {c : Config} {p : Panel} {i : Byte} {cur : Cursor}

theorem Panel.dataWord_of_unlatched (h : p.ir = none) (w : Word) : Panel.dataWord c w p = Panel.unknown := by
  simp [Panel.dataWord, h]

theorem Panel.dataWord_of_pixel (h : p.ir = some c.idx.gramRw) (w : Word) :
    Panel.dataWord c w p = Panel.pixelWord c w p := by
  simp [Panel.dataWord, h]

theorem Panel.dataWord_of_register (h : p.ir = some i) (hi : i ≠ c.idx.gramRw) (w : Word) :
    Panel.dataWord c w p = Panel.registerWord c i w p := by
  simp [Panel.dataWord, h, hi]

theorem Panel.registerWord_softReset : Panel.registerWord c idxSoftReset softResetMagic p = Panel.unknown := by
  simp [Panel.registerWord]

/-- A register write that is not the soft reset (20_memory R83). -/
theorem Panel.registerWord_of_ordinary {w : Word} (h : ¬(i = idxSoftReset ∧ w = softResetMagic)) :
    Panel.registerWord c i w p =
      { p with
        reg := Cells.put i.toNat w p.reg
        curH := if i = c.idx.ramAddr1 then some w else p.curH
        curV := if i = c.idx.ramAddr2 then some w else p.curV } :=
  if_neg h

/-- A pixel word at a known cursor on the screen (20_memory R84). -/
theorem Panel.pixelWord_of_on_screen (h : p.cur = some cur) (on : onScreen cur = true) (w : Word) :
    Panel.pixelWord c w p = Panel.advance c cur { p with gram := Cells.put (gramKey cur.h cur.v) w p.gram } := by
  simp [Panel.pixelWord, h, on]

/-- A pixel word where no cell is known to be meant (93_implementation_defined U4). -/
theorem Panel.pixelWord_of_lost (h : p.cur = none ∨ ∃ cur, p.cur = some cur ∧ onScreen cur = false) (w : Word) :
    Panel.pixelWord c w p = p.losePixels := by
  obtain h | ⟨cur, h, off⟩ := h
  · simp [Panel.pixelWord, h]
  · simp [Panel.pixelWord, h, off]

theorem Panel.cur_advance {mode : Word} {win : Window} (hm : p.readReg c.idx.entryMode = some mode)
    (hw : p.win c = some win) : (Panel.advance c cur p).cur = some (advanceCursor c.advance mode win cur) := by
  simp [Panel.advance, hm, hw, Panel.cur]

theorem Panel.cur_advance_of_unknown (h : p.readReg c.idx.entryMode = none ∨ p.win c = none) :
    (Panel.advance c cur p).cur = none := by
  unfold Panel.advance
  split
  · rename_i hm hw
    simp [hm, hw] at h
  · rfl

theorem onScreen_iff : onScreen cur = true ↔ cur.h.toNat < 176 ∧ cur.v.toNat < 220 := by
  simp [onScreen]

theorem onScreen_eq_false_iff : onScreen cur = false ↔ 176 ≤ cur.h.toNat ∨ 220 ≤ cur.v.toNat := by
  rw [← Bool.not_eq_true, onScreen_iff]
  omega

theorem Panel.readGram_pixelWord_self (h : p.cur = some cur) (on : onScreen cur = true) (w : Word) :
    (Panel.pixelWord c w p).readGram cur.h cur.v = some w := by
  rw [pixelWord_of_on_screen h on, readGram_on_screen on, advance_gram, Cells.get_put_self]

theorem Panel.readGram_pixelWord_ne (h : p.cur = some cur) (on : onScreen cur = true) {x y : Word}
    (hxy : onScreen ⟨x, y⟩ = true) (hn : x ≠ cur.h ∨ y ≠ cur.v) (w : Word) :
    (Panel.pixelWord c w p).readGram x y = p.readGram x y := by
  have key : gramKey x y ≠ gramKey cur.h cur.v := fun e => by
    obtain ⟨hx, hy⟩ := gramKey_inj (onScreen_iff.1 hxy).2 (onScreen_iff.1 on).2 e
    exact hn.elim (· hx) (· hy)
  rw [pixelWord_of_on_screen h on, readGram_on_screen hxy, readGram_on_screen hxy, advance_gram, Cells.get_put_ne key]

end

/-- Settles O12: a data word keeps the latch whether it is a pixel or a register write. -/
theorem indexLatchAndResetPulse : Obligations.IndexLatchAndResetPulse := by
  refine ⟨fun s => ⟨rfl, Panel.readReg_unknown, Panel.readGram_unknown, rfl, rfl⟩,
    fun c p w => ⟨rfl, fun i hi hn => ?_⟩⟩
  by_cases hg : i = c.idx.gramRw
  · subst hg
    exact Panel.dataWord_ir_pixel hi w
  · have ordinary : ¬(i = idxSoftReset ∧ w = softResetMagic) := fun ⟨hs, hw⟩ => hn ⟨hs, hw, hg⟩
    rw [Panel.consume, Panel.dataWord_of_register hi hg, Panel.registerWord_of_ordinary ordinary]
    exact hi

/-- Settles O13, by the laws of a data word and of a register write. -/
theorem dataWordWritesRegister : Obligations.DataWordWritesRegister := by
  refine fun c p w => ⟨fun h => Panel.dataWord_of_unlatched h w, fun i hi hg => ⟨?_, fun hn => ?_⟩⟩
  · rintro rfl rfl
    exact (Panel.dataWord_of_register hi hg _).trans Panel.registerWord_softReset
  · rw [Panel.consume, Panel.dataWord_of_register hi hg]
    refine ⟨Panel.readReg_registerWord_self hn c p, fun j hj => Panel.readReg_registerWord_ne hn hj c p, ?_⟩
    rw [Panel.registerWord_of_ordinary hn]
    exact ⟨rfl, rfl, rfl⟩

/-- Settles O14: the cursor is on the screen, or the pixels are lost. -/
theorem pixelWordWritesCell : Obligations.PixelWordWritesCell := by
  intro c p w hi
  rw [Panel.consume, Panel.dataWord_of_pixel hi]
  refine ⟨Panel.pixelWord_reg c w p, fun cur hc hh hv => ?_, fun lost => ?_⟩
  · have on : onScreen cur = true := onScreen_iff.2 ⟨hh, hv⟩
    refine ⟨Panel.readGram_pixelWord_self hc on w,
      fun x y hx hy hn => Panel.readGram_pixelWord_ne hc on (onScreen_iff.2 ⟨hx, hy⟩) hn w, ?_, ?_⟩
    · intro mode win hm hw
      rw [Panel.pixelWord_of_on_screen hc on]
      exact Panel.cur_advance hm hw
    · intro hu
      rw [Panel.pixelWord_of_on_screen hc on]
      exact Panel.cur_advance_of_unknown hu
  · simp only [← onScreen_eq_false_iff] at lost
    rw [Panel.pixelWord_of_lost lost]
    exact ⟨rfl, Panel.readGram_of_gram_nil rfl⟩

/-! Where the next pixel goes (20_memory R85). -/

section
variable {c : Config} {p : Panel} {i j : Byte} {w : Word}

/-- SETREG of a register other than the GRAM register is a data word to it. -/
theorem Panel.write_eq_registerWord (hg : i ≠ c.idx.gramRw) :
    Panel.write c p (i, w) = Panel.registerWord c i w { p with ir := some i } :=
  Panel.dataWord_of_register rfl hg w

variable (hg : i ≠ c.idx.gramRw) (hs : i ≠ idxSoftReset)
include hg hs

theorem Panel.readReg_write : (Panel.write c p (i, w)).readReg j = if j = i then some w else p.readReg j := by
  have ordinary : ¬(i = idxSoftReset ∧ w = softResetMagic) := fun h => hs h.1
  rw [write_eq_registerWord hg]
  split
  · rename_i e
    exact e ▸ readReg_registerWord_self ordinary c _
  · rename_i hj
    exact readReg_registerWord_ne ordinary hj c _

theorem Panel.curH_write : (Panel.write c p (i, w)).curH = if i = c.idx.ramAddr1 then some w else p.curH := by
  rw [write_eq_registerWord hg, registerWord_of_ordinary fun h => hs h.1]

theorem Panel.curV_write : (Panel.write c p (i, w)).curV = if i = c.idx.ramAddr2 then some w else p.curV := by
  rw [write_eq_registerWord hg, registerWord_of_ordinary fun h => hs h.1]

end

/-- The two register writes of SETADDR (42_window_addressing R171). -/
def addressTable (c : Config) (x y : Word) : List (Byte × Word) :=
  [(c.idx.ramAddr1, x), (c.idx.ramAddr2, y)]

/-- The registers SETWIN writes, the GRAM register and the soft-reset register. -/
def addressingRegisters (m : RegMap) : List Byte :=
  [m.ramAddr1, m.ramAddr2, m.gramRw, idxSoftReset] ++ [m.hwinEnd, m.hwinStart, m.vwinEnd, m.vwinStart]

/-- They are eight different registers (10_state R40). -/
theorem addressingRegisters_distinct {m : RegMap} (h : m.wellFormed = true) :
    (addressingRegisters m).Pairwise (fun a b => a ≠ b ∧ b ≠ a) := by
  have all : m.all.Nodup := by
    simp only [RegMap.wellFormed, Bool.and_eq_true, decide_eq_true_eq] at h
    tauto
  have sub : (addressingRegisters m).Sublist m.all := by
    refine (List.Sublist.append ?_ (List.Sublist.refl _)).trans (List.sublist_append_left _ _)
    have ram : [m.ramAddr1, m.ramAddr2, m.gramRw, idxSoftReset].Sublist
        [m.vciRecycling, m.ramAddr1, m.ramAddr2, m.gramRw, idxSoftReset, m.gateScan] := by
      simp
    simp only [List.append_assoc]
    exact (ram.trans (List.sublist_append_left _ _)).trans
      ((List.sublist_append_right _ _).trans (List.sublist_append_right _ _))
  exact (all.sublist sub).imp fun hn => ⟨hn, hn.symm⟩

section
variable {c : Config} (hw : c.idx.wellFormed = true) (p : Panel)
include hw

/-- SETWIN's six writes leave the window in its four registers and the start corner in the cursor. -/
theorem Panel.window_after_windowTable (win : Window) :
    ((windowTable c win).foldl (Panel.write c) p).win c = some win ∧
      ((windowTable c win).foldl (Panel.write c) p).cur = some ⟨win.hs, win.vs⟩ := by
  have distinct := addressingRegisters_distinct hw
  simp only [addressingRegisters, List.cons_append, List.nil_append, List.pairwise_cons,
    List.forall_mem_cons] at distinct
  simp [windowTable, Panel.win, Panel.cur, readReg_write, curH_write, curV_write, distinct]

/-- SETADDR's two writes put the cursor at its operands and leave the window. -/
theorem Panel.window_after_addressTable (x y : Word) :
    ((addressTable c x y).foldl (Panel.write c) p).win c = p.win c ∧
      ((addressTable c x y).foldl (Panel.write c) p).cur = some ⟨x, y⟩ := by
  have distinct := addressingRegisters_distinct hw
  simp only [addressingRegisters, List.cons_append, List.nil_append, List.pairwise_cons,
    List.forall_mem_cons] at distinct
  simp [addressTable, Panel.win, Panel.cur, readReg_write, curH_write, curV_write, distinct]

end

theorem idx_wellFormed {c : Config} (h : c.wellFormed = true) : c.idx.wellFormed = true := by
  simp only [Config.wellFormed, Bool.and_eq_true] at h
  exact h.1.2

/-- A valid window's start corner is on the screen (42_window_addressing R172). -/
theorem onScreen_of_validWindow {win : Window} (h : validWindow win = true) : onScreen ⟨win.hs, win.vs⟩ = true := by
  simp only [validWindow, Bool.and_eq_true, decide_eq_true_eq, screenSizeX, screenSizeY] at h
  rw [onScreen_iff]
  simp only
  omega

/-! What a ready engine answers to the commands of R85, under the parameters `c`. -/

section
variable {s : State} {c : Config} (hr : Ready s) (hc : s.cfg = c)
include hr

theorem Ready.writeRegisters (table : List (Byte × Word)) : Ready (writeRegisters table s) :=
  ⟨by simp [hr.idle], by simp [hr.closed], writeRegisters_fifo hr.drained table⟩

theorem exec_setwin_of_ready {win : Window} (hv : validWindow win = true) :
    exec (.setwin win.hs win.he win.vs win.ve) s = .next (setWindow win s) := by
  simp [exec, execSetwin, admission_ordinary_none.2 ⟨hr.idle, hr.closed⟩, require_none.2 hv]

theorem exec_setreg_of_ready (a : Byte) (v : Word) : exec (.setreg a v) s = .next (writeRegister a v s) := by
  simp [exec, execSetreg, admission_ordinary_none.2 ⟨hr.idle, hr.closed⟩]

include hc

theorem exec_setaddr_of_ready (x y : Word) : exec (.setaddr x y) s = .next (writeRegisters (addressTable c x y) s) := by
  simp [exec, execSetaddr, admission_ordinary_none.2 ⟨hr.idle, hr.closed⟩, addressTable, hc]

/-- The window and the start corner stand after SETWIN. -/
theorem window_after_setWindow (hw : c.idx.wellFormed = true) (win : Window) :
    (setWindow win s).panel.win c = some win ∧ (setWindow win s).panel.cur = some ⟨win.hs, win.vs⟩ := by
  rw [setWindow_panel hr.drained, hc]
  exact Panel.window_after_windowTable hw s.panel win

/-- The window is left and the cursor is at the operands after SETADDR. -/
theorem window_after_setaddr (hw : c.idx.wellFormed = true) (x y : Word) :
    (writeRegisters (addressTable c x y) s).panel.win c = s.panel.win c ∧
      (writeRegisters (addressTable c x y) s).panel.cur = some ⟨x, y⟩ := by
  rw [writeRegisters_panel hr.drained, hc]
  exact Panel.window_after_addressTable hw s.panel x y

/-- A word to the GRAM register lands at a known cursor on the screen (20_memory R84). -/
theorem readGram_after_pixel {cur : Cursor} (hcur : s.panel.cur = some cur) (on : onScreen cur = true) (w : Word) :
    (writeRegister c.idx.gramRw w s).panel.readGram cur.h cur.v = some w := by
  rw [writeRegister_drained hr.drained]
  simp only [Panel.write, hc]
  rw [Panel.dataWord_of_pixel rfl]
  exact Panel.readGram_pixelWord_self (p := { s.panel with ir := some c.idx.gramRw }) hcur on w

end

/-- Settles O21: after SETWIN and after SETADDR the window and the cursor are read off the registers they wrote. -/
theorem nextPixelAtStartCorner : Obligations.NextPixelAtStartCorner := by
  intro s win color hr hcfg hv
  have hw := idx_wellFormed hcfg
  have windowed : Ready (setWindow win s) := hr.setWindow win
  have hc : (setWindow win s).cfg = s.cfg := (setWindow_kept win s).1
  have addressed : Ready (writeRegisters (addressTable s.cfg win.hs win.vs) (setWindow win s)) :=
    windowed.writeRegisters _
  have hc' := (writeRegisters_kept (addressTable s.cfg win.hs win.vs) (setWindow win s)).1.trans hc
  obtain ⟨win_eq, cur_eq⟩ := window_after_setWindow hr rfl hw win
  obtain ⟨win_eq', cur_eq'⟩ := window_after_setaddr windowed hc hw win.hs win.vs
  exact ⟨_, _, _, exec_setwin_of_ready hr hv, win_eq, cur_eq,
    fun x y => ⟨_, exec_setaddr_of_ready windowed hc x y, (window_after_setaddr windowed hc hw x y).2⟩,
    exec_setaddr_of_ready windowed hc _ _, win_eq'.trans win_eq, cur_eq', exec_setreg_of_ready addressed _ _,
    readGram_after_pixel addressed hc' cur_eq' (onScreen_of_validWindow hv) color⟩

/-! The HOST's own store (20_memory R72, R76). -/

/-- A store of one element leaves every other element (20_memory R76). -/
theorem Memory.element_setElement_ne {e k : Nat} (h : e ≠ k) (m : List Host.Cell) (v : Word) :
    Memory.element (Memory.setElement m (2 * k) v) (2 * e) = Memory.element m (2 * e) := by
  have low : Memory.byte (Memory.setElement m (2 * k) v) (2 * e) = Memory.byte m (2 * e) :=
    byte_setElement_ne (by omega) (by omega) m v
  have high : Memory.byte (Memory.setElement m (2 * k) v) (2 * e + 1) = Memory.byte m (2 * e + 1) :=
    byte_setElement_ne (by omega) (by omega) m v
  rw [Memory.element, low, high, Memory.element]

/-- Settles O40: the element's two addresses lie in host memory, and no other address is written. -/
theorem hostStoreRule : Obligations.HostStoreRule := by
  intro s turns elem v ht
  have inside : 2 * elem.toNat + 1 < hostMemorySize := by
    have := elem.isLt
    simp only [hostMemorySize]
    omega
  refine ⟨_, step_of_turn ht, rfl, ?_, ?_, Memory.element_setElement_self inside s.mem v, fun e he => ?_, ?_⟩
  · exact (Memory.byte_setByte_ne (by omega) _ _).trans (Memory.byte_setByte_self (by omega) _ _)
  · exact Memory.byte_setByte_self inside _ _
  · exact Memory.element_setElement_ne he s.mem v
  · exact fun a h0 h1 => Memory.byte_setElement_ne h0 h1 s.mem v

end Sys2Proof.Machine
end

section
/-!
PROOFS. The family of 30_encoding: what a first word selects, a command's words and its decoding each from the other,
the wire items likewise, and the steps of an illegal word and of a wire item.
-/

namespace Sys2Proof

/-! A first word and the operands that follow it (30_encoding R102 to R107). -/

section
variable {op : Opcode} {a : Byte} {operands rest : List Word} {i : Instr}

/-- The low byte an opcode's first word may have: any where it is an operand, zero where it is reserved (30 R106). -/
def Opcode.Admits (op : Opcode) (a : Byte) : Prop :=
  op.hasImm = true ∨ a = 0#8

theorem Opcode.admits_iff : op.Admits a ↔ ¬(op.hasImm = false ∧ a ≠ 0#8) := by
  simp [Opcode.Admits, imp_iff_not_or]

theorem Opcode.len_pos (op : Opcode) : 0 < op.len := by
  cases op <;> decide

/-- Operands are missing exactly when fewer words follow than the row takes (30 R103): a case for each number of
operand words, by how many are there. -/
theorem Opcode.assemble_eq_none_iff : op.assemble a operands = none ↔ operands.length + 1 < op.len := by
  cases op with
  | wridx | getreg | pxstart | pxend | init | waitcb => simp [Opcode.assemble, Opcode.len]
  | wrdat | setreg | pxword | fill => cases operands <;> simp [Opcode.assemble, Opcode.len]
  | setaddr | setcb => rcases operands with _ | ⟨_, _ | ⟨_, _⟩⟩ <;> simp [Opcode.assemble, Opcode.len]
  | setwin | wrpix | dmawr =>
    rcases operands with _ | ⟨_, _ | ⟨_, _ | ⟨_, _ | ⟨_, _⟩⟩⟩⟩ <;> simp [Opcode.assemble, Opcode.len]
  | fillrect =>
    rcases operands with _ | ⟨_, _ | ⟨_, _ | ⟨_, _ | ⟨_, _ | ⟨_, _⟩⟩⟩⟩⟩ <;> simp [Opcode.assemble, Opcode.len]
  | blit =>
    rcases operands with _ | ⟨_, _ | ⟨_, _ | ⟨_, _ | ⟨_, _ | ⟨_, _ | ⟨_, _⟩⟩⟩⟩⟩⟩ <;> simp [Opcode.assemble, Opcode.len]

theorem select_of_admits (h : op.Admits a) : CommandRow.select (firstWord op.byte a) = some op.row := by
  simp only [select_firstWord, Opcode.ofByte_byte, if_neg (Opcode.admits_iff.1 h)]

theorem decodeCommand_of_assemble (h : op.Admits a) (ha : op.assemble a rest = some i) :
    decodeCommand (firstWord op.byte a :: rest) = .command i op.len := by
  simp only [decodeCommand, opField_firstWord, immField_firstWord, Opcode.ofByte_byte,
    if_neg (Opcode.admits_iff.1 h), ha]

theorem decodeCommand_of_truncated (h : op.Admits a) (hl : rest.length + 1 < op.len) :
    decodeCommand (firstWord op.byte a :: rest) = .illegal .truncated (rest.length + 1) := by
  simp only [decodeCommand, opField_firstWord, immField_firstWord, Opcode.ofByte_byte, if_neg (Opcode.admits_iff.1 h),
    Opcode.assemble_eq_none_iff.2 hl]

/-- A first word of no row is illegal with length 1, whatever follows it (30 R107). -/
theorem decodeCommand_of_no_row {c0 : Word} (h : CommandRow.select c0 = none) (rest : List Word) :
    ∃ why, decodeCommand (c0 :: rest) = .illegal why 1 := by
  rw [← firstWord_fields c0, select_firstWord] at h
  cases hop : Opcode.ofByte (opField c0) with
  | none => exact ⟨.undefinedOpcode, by simp [decodeCommand, hop]⟩
  | some op =>
    have reserved : op.hasImm = false ∧ immField c0 ≠ 0#8 := by simpa [hop] using h
    exact ⟨.reservedByte, by simp [decodeCommand, hop, reserved]⟩

/-- A first word that selects a row is the row's opcode with a low byte the row admits (30 R102, R106). -/
theorem firstWord_of_select {c0 : Word} {row : CommandRow} (h : CommandRow.select c0 = some row) :
    ∃ (op : Opcode) (a : Byte), c0 = firstWord op.byte a ∧ op.Admits a ∧ row = op.row := by
  rw [← firstWord_fields c0, select_firstWord] at h
  cases hop : Opcode.ofByte (opField c0) with
  | none => simp [hop] at h
  | some op =>
    simp only [hop, Option.ite_none_left_eq_some, Option.some.injEq] at h
    obtain ⟨hadmits, hrow⟩ := h
    refine ⟨op, immField c0, ?_, Opcode.admits_iff.2 hadmits, hrow.symm⟩
    rw [Opcode.byte_ofByte hop, firstWord_fields]

/-- The words of a decoded command: its row's first word, and operands the instruction is assembled of. -/
theorem firstWord_of_decodeCommand {words : List Word} {len : Nat} (h : decodeCommand words = .command i len) :
    ∃ (op : Opcode) (a : Byte) (rest : List Word),
      words = firstWord op.byte a :: rest ∧ op.Admits a ∧ op.assemble a rest = some i ∧ len = op.len := by
  obtain ⟨c0, rest, op, rfl, hop, hadmits, ha, hlen⟩ := decodeCommand_command h
  refine ⟨op, immField c0, rest, ?_, Opcode.admits_iff.2 hadmits, ha, hlen⟩
  rw [Opcode.byte_ofByte hop, firstWord_fields]

/-! A command's words (30_encoding R105, R106). -/

/-- An instruction's words are a first word of the opcode, with a low byte it admits, and exactly its operand words,
of which, whatever follows them, the instruction is assembled. -/
structure Instr.HasForm (i : Instr) (op : Opcode) (a : Byte) (operands : List Word) : Prop where
  words : encode i = .command (firstWord op.byte a :: operands)
  admits : op.Admits a
  length : operands.length + 1 = op.len
  assembled : ∀ rest, op.assemble a (operands ++ rest) = some i

/-- Every command has the form of its own row (30 R106). -/
theorem Instr.exists_form (hi : i.isCommand = true) : ∃ op a operands, i.HasForm op a operands := by
  cases i with
  | wridx a => exact ⟨.wridx, a, [], rfl, .inl rfl, rfl, fun _ => rfl⟩
  | wrdat v => exact ⟨.wrdat, 0#8, [v], rfl, .inr rfl, rfl, fun _ => rfl⟩
  | setreg a v => exact ⟨.setreg, a, [v], rfl, .inl rfl, rfl, fun _ => rfl⟩
  | getreg a => exact ⟨.getreg, a, [], rfl, .inl rfl, rfl, fun _ => rfl⟩
  | setwin hs he vs ve => exact ⟨.setwin, 0#8, [hs, he, vs, ve], rfl, .inr rfl, rfl, fun _ => rfl⟩
  | setaddr x y => exact ⟨.setaddr, 0#8, [x, y], rfl, .inr rfl, rfl, fun _ => rfl⟩
  | pxstart => exact ⟨.pxstart, 0#8, [], rfl, .inr rfl, rfl, fun _ => rfl⟩
  | pxword w => exact ⟨.pxword, 0#8, [w], rfl, .inr rfl, rfl, fun _ => rfl⟩
  | pxend => exact ⟨.pxend, 0#8, [], rfl, .inr rfl, rfl, fun _ => rfl⟩
  | wrpix src n =>
    exact ⟨.wrpix, 0#8, [lowHalf src, highHalf src, lowHalf n, highHalf n], rfl, .inr rfl, rfl,
      fun _ => by simp [Opcode.assemble]⟩
  | dmawr src n =>
    exact ⟨.dmawr, 0#8, [lowHalf src, highHalf src, lowHalf n, highHalf n], rfl, .inr rfl, rfl,
      fun _ => by simp [Opcode.assemble]⟩
  | fill color => exact ⟨.fill, 0#8, [color], rfl, .inr rfl, rfl, fun _ => rfl⟩
  | fillrect x y w h color => exact ⟨.fillrect, 0#8, [x, y, w, h, color], rfl, .inr rfl, rfl, fun _ => rfl⟩
  | blit x y w h src =>
    exact ⟨.blit, 0#8, [x, y, w, h, lowHalf src, highHalf src], rfl, .inr rfl, rfl, fun _ => by simp [Opcode.assemble]⟩
  | init => exact ⟨.init, 0#8, [], rfl, .inr rfl, rfl, fun _ => rfl⟩
  | setcb line fn =>
    exact ⟨.setcb, line, [lowHalf fn, highHalf fn], rfl, .inl rfl, rfl, fun _ => by simp [Opcode.assemble]⟩
  | waitcb => exact ⟨.waitcb, 0#8, [], rfl, .inr rfl, rfl, fun _ => rfl⟩
  | wIdx | wDat | wRd => cases hi

theorem Instr.HasForm.commandWords_eq (h : i.HasForm op a operands) :
    commandWords i = firstWord op.byte a :: operands := by
  simp [commandWords, h.words]

theorem Instr.HasForm.decodeCommand_append (h : i.HasForm op a operands) (rest : List Word) :
    decodeCommand (commandWords i ++ rest) = .command i (commandWords i).length := by
  rw [h.commandWords_eq, List.cons_append, decodeCommand_of_assemble h.admits (h.assembled rest), List.length_cons,
    h.length]

theorem decodeCommand_commandWords_append (hi : i.isCommand = true) (rest : List Word) :
    decodeCommand (commandWords i ++ rest) = .command i (commandWords i).length := by
  obtain ⟨_, _, _, h⟩ := Instr.exists_form hi
  exact h.decodeCommand_append rest

theorem encode_eq_command (hi : i.isCommand = true) : encode i = .command (commandWords i) := by
  obtain ⟨_, _, _, h⟩ := Instr.exists_form hi
  rw [h.commandWords_eq, h.words]

/-- What an instruction is assembled of are its words: each operand of the instruction is a word read, a 32-bit one two
words (30 R105). -/
theorem encode_of_assemble (h : op.Admits a) (ha : op.assemble a rest = some i) :
    encode i = .command (firstWord op.byte a :: rest.take (op.len - 1)) := by
  have reserved : op.hasImm = false → a = 0#8 := fun hf => h.resolve_left (by simp [hf])
  unfold Opcode.assemble at ha
  split at ha <;> cases ha <;> simp [encode, Opcode.len, Opcode.byte] <;> exact reserved rfl ▸ rfl

/-- The words of a decoded command are the command's words (30 R103, R105, R106). -/
theorem take_of_decodeCommand {words : List Word} {len : Nat} (h : decodeCommand words = .command i len) :
    words.take len = commandWords i ∧ len = (commandWords i).length := by
  have hle := len_le_of_decodeCommand h
  obtain ⟨op, a, rest, rfl, hadmits, ha, rfl⟩ := firstWord_of_decodeCommand h
  have words_eq : (firstWord op.byte a :: rest).take op.len = commandWords i := by
    rw [commandWords, encode_of_assemble hadmits ha, ← List.take_succ_cons, Nat.sub_add_cancel op.len_pos]
  exact ⟨words_eq, by rw [← words_eq, List.length_take, Nat.min_eq_left hle]⟩

end

/-! The wire items (30_encoding R100, R101). -/

theorem Level.bit_ofBit (b : BitVec 1) : (Level.ofBit b).bit = b := by
  revert b
  decide

/-- An item is its level and its word (30 R100). -/
theorem wireItem_fields (item : BitVec 17) : wireItem (itemLevel item) (itemWord item) = item := by
  rw [wireItem, itemLevel, Level.bit_ofBit, itemWord]
  have joined : item.extractLsb' 16 1 ++ item.extractLsb' 0 16 = item.extractLsb' 0 17 :=
    BitVec.extractLsb'_append_extractLsb'_eq_extractLsb' (rfl : 16 = 0 + 16)
  rw [joined, BitVec.extractLsb'_eq_self]

/-- An index word is the word whose upper byte is zero (30 R101). -/
theorem indexWord_eq_firstWord (a : Byte) : indexWord a = firstWord 0#8 a := by
  simpa using (firstWord_fields (indexWord a)).symm

theorem indexWord_immField {w : Word} (h : opField w = 0#8) : indexWord (immField w) = w := by
  rw [indexWord_eq_firstWord, ← h, firstWord_fields]

theorem decodeWire_wireItem_low (a : Byte) : decodeWire .sent (wireItem .low (indexWord a)) = some (.wIdx a) := by
  simp [decodeWire]

/-- The item a wire instruction is decoded from is its own (30 R100). -/
theorem encode_of_decodeWire {dir : Direction} {item : BitVec 17} {i : Instr} (h : decodeWire dir item = some i) :
    encode i = .wire dir item := by
  have fields := wireItem_fields item
  unfold decodeWire at h
  split at h
  · rename_i hl
    obtain ⟨hz, h⟩ := Option.ite_none_right_eq_some.1 h
    cases h
    rw [hl] at fields
    simp only [encode, indexWord_immField hz, fields]
  · rename_i hl
    cases h
    rw [hl] at fields
    simp only [encode, fields]
  · cases h
  · rename_i hl
    cases h
    rw [hl] at fields
    simp only [encode, fields]

/-! Decoding and encoding, a command or a wire item (30_encoding R100, R102). -/

theorem decodeCommand_of_decode {words : List Word} {i : Instr} (h : decode (.command words) = some i) :
    decodeCommand words = .command i words.length := by
  simp only [decode] at h
  split at h
  · rename_i j len hd
    obtain ⟨hl, h⟩ := Option.ite_none_right_eq_some.1 h
    cases h
    rw [hd, hl]
  · cases h
  · cases h

theorem decode_encode_of_command {i : Instr} (hi : i.isCommand = true) : decode (encode i) = some i := by
  have h := decodeCommand_commandWords_append hi []
  rw [List.append_nil] at h
  simp [encode_eq_command hi, decode, h]

theorem encode_wellFormed (i : Instr) : (encode i).wellFormed = true := by
  cases hi : i.isCommand with
  | true =>
    obtain ⟨_, _, _, h⟩ := Instr.exists_form hi
    rw [h.words]
    exact commandWellFormed_firstWord h.admits h.length
  | false =>
    cases i with
    | wIdx a => exact Laws.CodeShape.wIdx a
    | wDat d => exact Laws.CodeShape.wDat d
    | wRd v => exact Laws.CodeShape.wRd v
    | _ => cases hi

/-- Settles O1: a command is assembled from its own form, whatever words follow; a wire item is read off its fields. -/
theorem decodeUndoesEncode : Obligations.DecodeUndoesEncode := by
  refine ⟨fun i => ?_, fun i rest hi => decodeCommand_commandWords_append hi rest⟩
  cases hi : i.isCommand with
  | true => exact decode_encode_of_command hi
  | false =>
    cases i with
    | wIdx a => exact decodeWire_wireItem_low a
    | wDat d => exact Machine.decodeWire_sent_high d
    | wRd v => exact Machine.decodeWire_received_high v
    | _ => cases hi

/-- Settles O2: the words an instruction is assembled of, and the fields of an item, are those it is encoded as. -/
theorem encodeUndoesDecode : Obligations.EncodeUndoesDecode := by
  refine ⟨fun code i h => ?_, fun words i len h => take_of_decodeCommand h⟩
  have coded : encode i = code := by
    cases code with
    | wire dir item => exact encode_of_decodeWire h
    | command words =>
      have hd := decodeCommand_of_decode h
      rw [encode_eq_command (isCommand_of_decodeCommand hd), ← (take_of_decodeCommand hd).1, List.take_length]
  exact ⟨coded, coded ▸ encode_wellFormed i⟩

end Sys2Proof

namespace Sys2Proof.Machine

section
variable {s : State} {turns : List Turn}

/-- The HOST's step on an illegal command (30 R103, R107). -/
theorem step_host_of_illegal (ht : s.turns = .host :: turns) (hw : s.wait = .none) {why : Illegal} {len : Nat}
    (hd : decodeCommand (s.prog.drop s.cpc) = .illegal why len) :
    step s = .next { raise .illegal { s with turns := turns } with cpc := s.cpc + len } :=
  (step_host ht hw).trans (issueCommand_of_illegal hd)

end

/-- Settles O3: a first word of a row fixes the opcode, and the opcode the number of operand words. -/
theorem lengthFromFirstWord : Obligations.LengthFromFirstWord := by
  refine ⟨fun c0 rest => ?_, fun s turns c0 rest row ht hw hp hrow hl => ?_⟩
  · split
    · rename_i h
      exact decodeCommand_of_no_row h rest
    · rename_i row h
      obtain ⟨op, a, rfl, hadmits, rfl⟩ := firstWord_of_select h
      refine ⟨decodeCommand_of_truncated hadmits, fun hl => ?_⟩
      have complete : op.assemble a rest ≠ none := fun e => Nat.not_lt.2 hl (Opcode.assemble_eq_none_iff.1 e)
      obtain ⟨i, ha⟩ := Option.ne_none_iff_exists'.1 complete
      exact ⟨i, (Opcode.assemble_some ha).1, decodeCommand_of_assemble hadmits ha⟩
  · obtain ⟨op, a, rfl, hadmits, rfl⟩ := firstWord_of_select hrow
    exact step_host_of_illegal ht hw (hp ▸ decodeCommand_of_truncated hadmits hl)

/-- Settles O4: each is one evaluation of the decoder. -/
theorem writtenWordsDecode : Obligations.WrittenWordsDecode :=
  ⟨rfl, rfl, rfl, rfl, rfl, rfl, rfl⟩

/-- Settles O7: a word of no row is decoded as illegal with length 1, and the HOST's step raises `E_ILLEGAL`. -/
theorem illegalWordRejected : Obligations.IllegalWordRejected := by
  intro s turns c0 rest ht hw hp hrow
  obtain ⟨why, hd⟩ := decodeCommand_of_no_row hrow rest
  exact step_host_of_illegal ht hw (hp ▸ hd)

/-! The wire items on the wire (30_encoding R100). -/

section
variable {c : Config} {p : Panel} {s : State}

theorem onWire_of_selected {r : Level} (hc : s.cs = .low) (hr : s.rs = r) (effect : State → State) :
    onWire r effect s = .next (effect s) := by
  simp [onWire, whileSelected, hr, hc]

/-- A read at the GRAM register (93 U6), or at no known index (log 13), loses the cursor. -/
theorem Panel.afterRead_of_pixel (h : p.ir = some c.idx.gramRw ∨ p.ir = none) :
    Panel.afterRead c p = p.loseCursor := by
  obtain h | h := h <;> simp [Panel.afterRead, h]

theorem Panel.afterRead_of_register (hg : p.ir ≠ some c.idx.gramRw) (hn : p.ir ≠ none) : Panel.afterRead c p = p := by
  obtain ⟨i, hi⟩ := Option.ne_none_iff_exists'.1 hn
  have other : i ≠ c.idx.gramRw := by simpa [hi] using hg
  simp [Panel.afterRead, hi, other]

theorem exec_wIdx_of_selected (hc : s.cs = .low) (hr : s.rs = .low) (a : Byte) :
    exec (.wIdx a) s = .next (shiftOut (indexWord a) s) :=
  onWire_of_selected hc hr _

theorem exec_wDat_of_selected (hc : s.cs = .low) (hr : s.rs = .high) (d : Word) :
    exec (.wDat d) s = .next (shiftOut d s) :=
  onWire_of_selected hc hr _

theorem exec_wRd_of_selected (hc : s.cs = .low) (hr : s.rs = .high) (hs : s.cfg.readSupport = true) (v : Word) :
    exec (.wRd v) s = .next (receiveWord v s) :=
  (if_pos hs).trans (onWire_of_selected hc hr _)

end

/-- Settles O15: each item is its one event, and the far end's part of it. -/
theorem wireItemsRun : Obligations.WireItemsRun := by
  intro s hc
  refine ⟨fun a hr => ?_, fun d hr => ?_, fun v hr hs => ⟨fun hg => ?_, fun hg hn => ?_⟩⟩
  · rw [exec_wIdx_of_selected hc hr, shiftOut, hr, Panel.consume, Panel.latchIndex_eq]
    rfl
  · rw [exec_wDat_of_selected hc hr, shiftOut, hr]
    rfl
  · rw [exec_wRd_of_selected hc hr hs, receiveWord, hr, Panel.afterRead_of_pixel hg]
    rfl
  · rw [exec_wRd_of_selected hc hr hs, receiveWord, hr, Panel.afterRead_of_register hg hn]
    rfl

end Sys2Proof.Machine
end

section
/-!
PROOFS. The family of 40_register_protocol: what the admission check answers, what an ordinary command does with the
answer, and the commands WRIDX, WRDAT, SETREG and GETREG.
-/

namespace Sys2Proof.Machine

section
variable {s : State} {i : Instr} {v : Violation}

/-! What a command does with the answer of its checks (60 R243, R245, R246). -/

theorem admission_ordinary_busy (hd : s.dstate ≠ .idle) : admission .ordinary s = some .busy := by
  simp [admission, require, hd]

theorem admission_ordinary_frame (hd : s.dstate = .idle) (hf : s.frameOpen = true) :
    admission .ordinary s = some .frame := by
  simp [admission, require, hd, hf]

theorem Ready.admitted (hr : Ready s) : admission .ordinary s = none :=
  admission_ordinary_none.2 ⟨hr.idle, hr.closed⟩

theorem require_false (v : Violation) : require false v = some v := rfl

theorem rejects_of_checked {o : Option Violation} {effect : State → State} (h : exec i s = checked o effect s)
    (ho : o = some v) : Rejects i v s :=
  h.trans (by rw [ho, checked_some])

theorem exec_of_checked {o : Option Violation} {effect : State → State} (h : exec i s = checked o effect s)
    (ho : o = none) : exec i s = .next (effect s) :=
  h.trans (by rw [ho, checked_none])

/-- A command that raises what the admission check finds is an ordinary one (60 R245). -/
theorem rejectedUnlessIdle_of_admission (h : ∀ s v, admission .ordinary s = some v → Rejects i v s) :
    RejectedUnlessIdle i :=
  fun s => ⟨fun hd => h s _ (admission_ordinary_busy hd), fun hd hf => h s _ (admission_ordinary_frame hd hf)⟩

/-! What a ready engine answers (40 R130, R131, R133). -/

theorem exec_wridx_of_ready (hr : Ready s) (a : Byte) : exec (.wridx a) s = .next (indexFrame a s) :=
  exec_of_checked rfl hr.admitted

theorem exec_wrdat_of_ready (hr : Ready s) (w : Word) : exec (.wrdat w) s = .next (dataFrame w s) :=
  exec_of_checked rfl hr.admitted

theorem exec_getreg_of_ready (hr : Ready s) (hs : s.cfg.readSupport = true) (a : Byte) :
    exec (.getreg a) s = .next (readRegister a s) :=
  exec_of_checked rfl (by rw [require_none.2 hs, hr.admitted, Option.or_none])

/-- The word a genuine panel answers at the driver-code register (20_memory R88). -/
theorem readValue_driverCode (hg : s.cfg.panelGenuine = true) : readValue s.cfg.idx.driverCode s = deviceId :=
  if_pos ⟨hg, rfl⟩

/-- With an index latched, a read loses the cursor when it is the GRAM register's, and changes nothing else (93 U6). -/
theorem Panel.afterRead_of_latched (c : Config) (p : Panel) (a : Byte) :
    Panel.afterRead c { p with ir := some a } =
      { p with
        ir := some a
        curH := if a = c.idx.gramRw then none else p.curH
        curV := if a = c.idx.gramRw then none else p.curV } := by
  by_cases hg : a = c.idx.gramRw
  · rw [Panel.afterRead_of_pixel (.inl (congrArg some hg)), if_pos hg, if_pos hg]
    rfl
  · rw [Panel.afterRead_of_register (by simpa using hg) (Option.some_ne_none a), if_neg hg, if_neg hg]

/-- GETREG raises what the admission check finds only with read support (60 R246). -/
theorem rejects_getreg_of_admission (hs : s.cfg.readSupport = true) (hv : admission .ordinary s = some v) (a : Byte) :
    Rejects (.getreg a) v s :=
  rejects_of_checked rfl (by rw [require_none.2 hs, hv, Option.none_or])

theorem rejects_getreg_without_readSupport (hs : s.cfg.readSupport = false) (a : Byte) :
    Rejects (.getreg a) .unsupported s :=
  rejects_of_checked rfl (by rw [hs, require_false, Option.some_or])

end

/-- Settles O8: an ordinary command whose effect is the index frame. -/
theorem wridxRule : Obligations.WridxRule := by
  refine fun a => ⟨rfl, rejectedUnlessIdle_of_admission fun _ _ => rejects_of_checked rfl, fun s hr => ?_⟩
  rw [exec_wridx_of_ready hr, indexFrame_drained hr.drained]

/-- Settles O9: an ordinary command whose effect is the data frame. -/
theorem wrdatRule : Obligations.WrdatRule := by
  refine fun v => ⟨rfl, rejectedUnlessIdle_of_admission fun _ _ => rejects_of_checked rfl, fun s hr => ?_⟩
  rw [exec_wrdat_of_ready hr, dataFrame_drained hr.drained]

/-- Settles O10: an ordinary command, checked once, whose effect is the index frame and then the data frame. -/
theorem setregRule : Obligations.SetregRule := by
  refine fun a v => ⟨rfl, rejectedUnlessIdle_of_admission fun _ _ => rejects_of_checked rfl, fun s hr => ?_⟩
  rw [exec_setreg_of_ready hr, writeRegister_drained hr.drained, registerEvents, Panel.write]

/-- Settles O11: the feature gate, then the admission check, then the two frames; the word is the far end's answer. -/
theorem getregRule : Obligations.GetregRule := by
  refine fun a => ⟨rfl, fun s => ⟨fun hs => rejects_getreg_without_readSupport hs a,
    fun hs hd => rejects_getreg_of_admission hs (admission_ordinary_busy hd) a,
    fun hs hd hf => rejects_getreg_of_admission hs (admission_ordinary_frame hd hf) a,
    fun hs hr => ⟨readValue a s, ?_, ?_⟩⟩⟩
  · rintro hg rfl
    exact readValue_driverCode hg
  · rw [exec_getreg_of_ready hr hs, readRegister_drained hr.drained, Panel.afterRead_of_latched]

end Sys2Proof.Machine
end

section
/-!
PROOFS. The family of 41_init_sequencer: INIT's stages and delays, the identification check, and what the tables leave
at the far end.
-/

namespace Sys2Proof.Machine

/-! The delays (41_init_sequencer R161, 70_reset_and_hazards R281): a register write carries none. -/

@[simp] theorem delays_registerEvents (a : Byte) (v : Word) : (registerEvents a v).filterMap Event.delayMs = [] := rfl

@[simp] theorem delays_tableEvents (table : List (Byte × Word)) : (tableEvents table).filterMap Event.delayMs = [] := by
  simp [tableEvents, List.filterMap_flatMap]

@[simp] theorem delays_ledEvents (c : Config) (l : Lamp) : (ledEvents c l).filterMap Event.delayMs = [] := by
  unfold ledEvents
  split <;> rfl

theorem delays_initEvents (c : Config) :
    (initEvents c).filterMap Event.delayMs = [1, 10, 50, 40, 10, 50, 50, 50] := by
  simp [initEvents, initPinEvents, initTableEvents, List.filterMap_cons, Event.delayMs]

/-! The identification check (41 R159). -/

theorem toInt_idDifference (v : Word) : (idDifference v).toInt = (0x9225 : Int) - (v.toNat : Int) := by
  have hv : v.toNat < 65536 := v.isLt
  have device : (deviceId.toNat : Int) = 0x9225 := rfl
  rw [idDifference, device, BitVec.toInt_ofInt_eq_self] <;> omega

theorem idDifference_eq_zero_iff (v : Word) : idDifference v = 0#32 ↔ v = 0x9225#16 := by
  have difference := toInt_idDifference v
  constructor
  · intro h
    rw [h, BitVec.toInt_zero] at difference
    exact BitVec.eq_of_toNat_eq (by simp only [BitVec.toNat_ofNat]; omega)
  · rintro rfl
    rfl

/-- The low half of GETREG's `result` is the word it read. -/
theorem lowWord_setWidth (v : Word) : (v.setWidth 32).extractLsb' 0 16 = v := by
  rw [← BitVec.setWidth_eq_extractLsb' (by omega), BitVec.setWidth_setWidth_of_le _ (by omega), BitVec.setWidth_eq]

section
variable {s : State}

theorem initIdCheck_with_readSupport (h : s.fifo = []) (hs : s.cfg.readSupport = true) :
    initIdCheck s =
      { s.withEvents (readEvents s.cfg.idx.driverCode (readValue s.cfg.idx.driverCode s)) with
        cs := .high
        rs := .high
        draws := s.draws + 1
        result := idDifference (readValue s.cfg.idx.driverCode s) } := by
  rw [initIdCheck, if_pos hs, readRegister_withEvents h]
  simp only [lowWord_setWidth]

theorem initIdCheck_without_readSupport (hs : s.cfg.readSupport = false) :
    initIdCheck s = { s with result := 0#32 } :=
  if_neg (by simp [hs])

/-! INIT as a command (41 R150). -/

theorem exec_init (s : State) :
    exec .init s = checked (admission .ordinary s) (fun t => initIdCheck (initSequence t)) s := rfl

theorem exec_init_of_ready (hr : Ready s) : exec .init s = .next (initIdCheck (initSequence s)) := by
  rw [exec_init, hr.admitted, checked_none]

theorem initSequence_cfg (h : s.fifo = []) : (initSequence s).cfg = s.cfg := by
  rw [initSequence_withEvents h]
  rfl

/-- INIT's whole effect with read support: the stages' events, then the read of the driver code, which answers `v`. -/
theorem init_with_readSupport (hr : Ready s) (hs : s.cfg.readSupport = true) {v : Word}
    (hv : readValue s.cfg.idx.driverCode (initSequence s) = v) :
    initIdCheck (initSequence s) =
      { s.withEvents (initEvents s.cfg ++ readEvents s.cfg.idx.driverCode v) with
        cs := .high
        rs := .high
        rst := .high
        bl := .on
        led := if s.cfg.hasLedPin then .on else s.led
        tdCfg := true
        tdWidth := 16
        tdDst := s.cfg.busDataReg
        tdDreq := s.cfg.busTxDreq
        draws := s.draws + 1
        result := idDifference v } := by
  have hc := initSequence_cfg hr.drained
  rw [initIdCheck_with_readSupport hr.initSequence.drained (by rw [hc, hs]), hc, hv, initSequence_withEvents hr.drained,
    withEvents_append]
  rfl

end

/-- Settles O16: an ordinary command whose effect is its events, the latches and the descriptor. -/
theorem initStages : Obligations.InitStages := by
  refine ⟨rfl, rejectedUnlessIdle_of_admission fun s _ => rejects_of_checked (exec_init s),
    fun s => ⟨delays_initEvents s.cfg, fun hr hs => ?_⟩⟩
  rw [exec_init_of_ready hr, initIdCheck_without_readSupport (by rw [initSequence_cfg hr.drained, hs]),
    initSequence_withEvents hr.drained]

/-- Settles O17: the word is the far end's answer at the driver-code register, after the stages' events. -/
theorem initIdentification : Obligations.InitIdentification := by
  refine fun s hr => ⟨fun hs => ?_, fun hs => ?_⟩
  · have hc := initSequence_cfg hr.drained
    refine ⟨readValue s.cfg.idx.driverCode (initSequence s), _, exec_init_of_ready hr, ?_⟩
    rw [init_with_readSupport hr hs rfl]
    refine ⟨rfl, toInt_idDifference _, idDifference_eq_zero_iff _, fun hg => ?_⟩
    rw [← hc] at hg ⊢
    exact readValue_driverCode hg
  · refine ⟨_, exec_init_of_ready hr, ?_⟩
    rw [initIdCheck_without_readSupport (by rw [initSequence_cfg hr.drained, hs])]
    simp

/-! The registers the tables name (10_state R40, 41 R152). -/

/-- A list in category order holds each category's registers, once each. -/
theorem perm_of_inCategoryOrder {groups : List (List Byte)} {l : List Byte} (h : inCategoryOrder groups l = true) :
    l.Perm groups.flatten := by
  induction groups generalizing l with
  | nil => simpa [inCategoryOrder] using h
  | cons g gs ih =>
    simp only [inCategoryOrder, Bool.and_eq_true, List.isPerm_iff] at h
    obtain ⟨first, others⟩ := h
    rw [List.flatten_cons, ← List.take_append_drop g.length l]
    exact first.append (ih others)

/-- The map's indices are those of the configuration table's categories, the gamma and power registers, the driver code,
the GRAM register and the soft reset, each listed as often. -/
theorem registers_perm (m : RegMap) :
    m.all.Perm (m.cfgCategories.flatten ++ (m.gamma ++ [m.driverCode, m.gramRw, idxSoftReset]) ++ m.powerCtrl) := by
  rw [List.perm_iff_count]
  intro a
  simp only [RegMap.all, RegMap.cfgCategories, List.flatten_cons, List.flatten_nil, List.count_append, List.count_cons,
    List.count_nil]
  ring

section
variable {c : Config} (hw : c.wellFormed = true)
include hw

/-- What 41 R152 says of the configuration table: its registers are the categories', and it holds the fixed values. -/
theorem cfgTable_wellFormed :
    (c.init.cfg.map Prod.fst).Perm c.idx.cfgCategories.flatten ∧ ∀ e ∈ fixedCfgValues c.idx, e ∈ c.init.cfg := by
  simp only [Config.wellFormed, InitTables.wellFormed, Bool.and_eq_true, List.all_eq_true, List.contains_iff_mem] at hw
  obtain ⟨-, ⟨⟨-, order⟩, fixed⟩, -⟩ := hw
  exact ⟨perm_of_inCategoryOrder order, fixed⟩

theorem categories_nodup :
    (c.idx.cfgCategories.flatten ++ (c.idx.gamma ++ [c.idx.driverCode, c.idx.gramRw, idxSoftReset])).Nodup := by
  have all : c.idx.all.Nodup := by
    simp only [Config.wellFormed, RegMap.wellFormed, Bool.and_eq_true, decide_eq_true_eq] at hw
    tauto
  exact ((registers_perm c.idx).nodup_iff.1 all).of_append_left

theorem cfgRegisters_nodup :
    (c.init.cfg.map Prod.fst ++ (c.idx.gamma ++ [c.idx.driverCode, c.idx.gramRw, idxSoftReset])).Nodup :=
  ((cfgTable_wellFormed hw).1.append_right _).nodup_iff.2 (categories_nodup hw)

theorem driverCode_ne_gramRw : c.idx.driverCode ≠ c.idx.gramRw :=
  List.ne_of_not_mem_cons (List.nodup_cons.1 (categories_nodup hw).of_append_right.of_append_right).1

/-- The display control, which INIT writes once more after the configuration table (41 R158), is none of these. -/
theorem ne_dispCtrl {i : Byte} (hi : i ∈ [c.idx.ramAddr1, c.idx.ramAddr2] ++ (fixedCfgValues c.idx).map Prod.fst) :
    i ≠ c.idx.dispCtrl := by
  have distinct := (categories_nodup hw).of_append_left
  simp only [RegMap.cfgCategories, List.flatten_cons, List.cons_append, List.nil_append, List.nodup_cons] at distinct
  obtain ⟨-, -, entryMode, dispCtrl, -⟩ := distinct
  rintro rfl
  simp only [fixedCfgValues, List.map_cons] at hi
  grind

end

/-! What a table of register writes leaves in a register (20_memory R83). -/

/-- `view` shows the last word written to the register `i`. -/
def ShowsRegister (c : Config) (i : Byte) (view : Panel → Option Word) : Prop :=
  ∀ (p : Panel) (j : Byte) (w : Word), j ≠ c.idx.gramRw → j ≠ idxSoftReset →
    view (Panel.write c p (j, w)) = if j = i then some w else view p

theorem showsRegister_readReg (c : Config) (i : Byte) : ShowsRegister c i (Panel.readReg · i) := by
  intro p j w hg hs
  simp only [Panel.readReg_write hg hs, eq_comm]

theorem showsRegister_curH (c : Config) : ShowsRegister c c.idx.ramAddr1 Panel.curH :=
  fun _ _ _ hg hs => Panel.curH_write hg hs

theorem showsRegister_curV (c : Config) : ShowsRegister c c.idx.ramAddr2 Panel.curV :=
  fun _ _ _ hg hs => Panel.curV_write hg hs

/-- Later writes to other registers, none of them a pixel or a reset, do not change what a register shows. -/
theorem ShowsRegister.foldl_write {c : Config} {i : Byte} {view : Panel → Option Word} (h : ShowsRegister c i view)
    {table : List (Byte × Word)} (ht : ∀ e ∈ table, e.1 ≠ i ∧ e.1 ≠ c.idx.gramRw ∧ e.1 ≠ idxSoftReset) (p : Panel) :
    view (table.foldl (Panel.write c) p) = view p := by
  induction table generalizing p with
  | nil => rfl
  | cons e rest ih =>
    obtain ⟨⟨hi, hg, hs⟩, hrest⟩ := List.forall_mem_cons.1 ht
    rw [List.foldl_cons, ih hrest, h p e.1 e.2 hg hs, if_neg hi]

/-! What INIT's tables leave at the far end (41 R157, R158; 70_reset_and_hazards R273). -/

section
variable {c : Config} (hw : c.wellFormed = true)
include hw

theorem dispCtrl_mem_cfg : c.idx.dispCtrl ∈ c.init.cfg.map Prod.fst :=
  (cfgTable_wellFormed hw).1.mem_iff.2 (by simp [RegMap.cfgCategories])

/-- No entry of the configuration table is a pixel or a reset. -/
theorem cfgRegister_ordinary {i : Byte} (hi : i ∈ c.init.cfg.map Prod.fst) :
    i ≠ c.idx.gramRw ∧ i ≠ idxSoftReset := by
  have apart := (List.nodup_append.1 (cfgRegisters_nodup hw)).2.2 i hi
  exact ⟨apart _ (by simp), apart _ (by simp)⟩

/-- What INIT writes after an entry of the configuration table goes to other registers, none a pixel or a reset. -/
theorem writes_after_cfgEntry {i : Byte} {w : Word} {before after : List (Byte × Word)}
    (hcfg : c.init.cfg = before ++ (i, w) :: after) (hd : i ≠ c.idx.dispCtrl) :
    ∀ e ∈ after ++ (c.idx.gamma.zip c.init.gamma ++ [(c.idx.dispCtrl, c.init.dispOn)]),
      e.1 ≠ i ∧ e.1 ≠ c.idx.gramRw ∧ e.1 ≠ idxSoftReset := by
  have nodup := cfgRegisters_nodup hw
  intro e he
  rw [List.mem_append, List.mem_append, List.mem_singleton] at he
  obtain he | he | rfl := he
  · have later : e.1 ∈ after.map Prod.fst := List.mem_map_of_mem he
    refine ⟨?_, cfgRegister_ordinary hw (by simp [hcfg, later])⟩
    grind
  · have gamma : e.1 ∈ c.idx.gamma := (List.of_mem_zip he).1
    grind
  · exact ⟨hd.symm, cfgRegister_ordinary hw (dispCtrl_mem_cfg hw)⟩

/-- A register of the configuration table other than the display control shows its entry after INIT. -/
theorem ShowsRegister.after_initTable {i : Byte} {w : Word} {view : Panel → Option Word} (h : ShowsRegister c i view)
    (he : (i, w) ∈ c.init.cfg) (hd : i ≠ c.idx.dispCtrl) (p : Panel) :
    view ((initTable c).foldl (Panel.write c) p) = some w := by
  obtain ⟨before, after, hcfg⟩ := List.append_of_mem he
  obtain ⟨hg, hs⟩ := cfgRegister_ordinary hw (List.mem_map_of_mem he)
  have table : initTable c =
      (c.idx.powerCtrl.map (fun i => (i, 0x0000#16)) ++ c.init.pwrOn ++ [(c.idx.powerCtrl2, c.init.boost)] ++ before) ++
        (i, w) :: (after ++ (c.idx.gamma.zip c.init.gamma ++ [(c.idx.dispCtrl, c.init.dispOn)])) := by
    simp [initTable, hcfg]
  rw [table, List.foldl_append, List.foldl_cons, h.foldl_write (writes_after_cfgEntry hw hcfg hd), h _ i w hg hs,
    if_pos rfl]

theorem readReg_dispCtrl_after_initTable (p : Panel) :
    ((initTable c).foldl (Panel.write c) p).readReg c.idx.dispCtrl = some c.init.dispOn := by
  obtain ⟨hg, hs⟩ := cfgRegister_ordinary hw (dispCtrl_mem_cfg hw)
  rw [initTable, List.foldl_append, List.foldl_cons, List.foldl_nil, Panel.readReg_write hg hs, if_pos rfl]

/-- A value that 41 R152 fixes stands in its register after INIT. -/
theorem readReg_fixed_after_initTable {i : Byte} {w : Word} (he : (i, w) ∈ fixedCfgValues c.idx) (p : Panel) :
    ((initTable c).foldl (Panel.write c) p).readReg i = some w :=
  (showsRegister_readReg c i).after_initTable hw ((cfgTable_wellFormed hw).2 _ he)
    (ne_dispCtrl hw (List.mem_append_right _ (List.mem_map_of_mem he))) p

theorem win_after_initTable (p : Panel) :
    ((initTable c).foldl (Panel.write c) p).win c = some ⟨0#16, 175#16, 0#16, 219#16⟩ := by
  have bound {i : Byte} {w : Word} (he : (i, w) ∈ fixedCfgValues c.idx) := readReg_fixed_after_initTable hw he p
  rw [Panel.win, bound (i := c.idx.hwinStart) (w := 0#16) (by simp [fixedCfgValues]),
    bound (i := c.idx.hwinEnd) (w := 175#16) (by simp [fixedCfgValues]),
    bound (i := c.idx.vwinStart) (w := 0#16) (by simp [fixedCfgValues]),
    bound (i := c.idx.vwinEnd) (w := 219#16) (by simp [fixedCfgValues])]

/-- The cursor stands at the table's two RAM-address values. -/
theorem cur_after_initTable (p : Panel) :
    ∃ h v, (c.idx.ramAddr1, h) ∈ c.init.cfg ∧ (c.idx.ramAddr2, v) ∈ c.init.cfg ∧
      ((initTable c).foldl (Panel.write c) p).cur = some ⟨h, v⟩ := by
  have entry {i : Byte} (hi : i ∈ c.idx.cfgCategories.flatten) : ∃ w, (i, w) ∈ c.init.cfg := by
    simpa using (cfgTable_wellFormed hw).1.mem_iff.2 hi
  obtain ⟨h, hh⟩ := entry (i := c.idx.ramAddr1) (by simp [RegMap.cfgCategories])
  obtain ⟨v, hv⟩ := entry (i := c.idx.ramAddr2) (by simp [RegMap.cfgCategories])
  refine ⟨h, v, hh, hv, ?_⟩
  rw [Panel.cur, (showsRegister_curH c).after_initTable hw hh (ne_dispCtrl hw (by simp)) p,
    (showsRegister_curV c).after_initTable hw hv (ne_dispCtrl hw (by simp)) p]

/-- The read of the driver code latches its index and leaves the rest of the far end (93 U6). -/
theorem Panel.afterRead_driverCode (p : Panel) :
    Panel.afterRead c { p with ir := some c.idx.driverCode } = { p with ir := some c.idx.driverCode } :=
  Panel.afterRead_of_register (by simp [driverCode_ne_gramRw hw]) (Option.some_ne_none _)

end

/-- INIT leaves the far end as its tables do, whether or not stage 9 latches the driver-code register, and lights the
backlight. -/
theorem farEnd_after_init {s : State} (hr : Ready s) (hw : s.cfg.wellFormed = true) :
    ∃ latched, (initIdCheck (initSequence s)).panel =
      { (initTable s.cfg).foldl (Panel.write s.cfg) Panel.unknown with ir := latched } ∧
      (initIdCheck (initSequence s)).bl = .on := by
  cases hs : s.cfg.readSupport with
  | true =>
    rw [init_with_readSupport hr hs rfl]
    refine ⟨some s.cfg.idx.driverCode, ?_, rfl⟩
    simp [farEndAfter_init, Panel.afterRead_driverCode hw]
  | false =>
    rw [initIdCheck_without_readSupport (by rw [initSequence_cfg hr.drained, hs]), initSequence_withEvents hr.drained]
    exact ⟨_, farEndAfter_init s.cfg s.panel, rfl⟩

/-- Settles O18: the far end holds what the tables wrote, whatever index stage 9 latches. -/
theorem initConfiguresFarEnd : Obligations.InitConfiguresFarEnd := by
  intro s t hr hw h
  rw [exec_init_of_ready hr, Host.Outcome.next.injEq] at h
  subst h
  obtain ⟨latched, panel_eq, lit⟩ := farEnd_after_init hr hw
  rw [panel_eq]
  exact ⟨readReg_fixed_after_initTable hw (by simp [fixedCfgValues, entryModeValue]) _, win_after_initTable hw _,
    cur_after_initTable hw _, readReg_dispCtrl_after_initTable hw _, lit⟩

end Sys2Proof.Machine
end

section
/-!
PROOFS. The family of 42_window_addressing: the rectangle's window, the cells a burst writes, SETWIN, SETADDR, FILLRECT,
FILL and BLIT as commands, and that no command reads the far end.
-/

namespace Sys2Proof.Machine

/-! The rectangle and its window (42_window_addressing R172, R175). -/

theorem validRect_iff {x y w h : Word} :
    validRect x y w h = true ↔ 2 ≤ w.toNat ∧ 2 ≤ h.toNat ∧ x.toNat + w.toNat ≤ 220 ∧ y.toNat + h.toNat ≤ 176 := by
  simp [validRect, and_assoc]

theorem validWindow_iff {win : Window} :
    validWindow win = true ↔
      win.hs.toNat < win.he.toNat ∧ win.he.toNat < 176 ∧ win.vs.toNat < win.ve.toNat ∧ win.ve.toNat < 220 := by
  simp [validWindow, and_assoc]

/-- The four expressions of R175 in 16-bit modular arithmetic. -/
theorem rectWindow_toNat (x y w h : Word) :
    (rectWindow x y w h).hs.toNat = y.toNat ∧
    (rectWindow x y w h).he.toNat = (y.toNat + h.toNat + 65535) % 65536 ∧
    (rectWindow x y w h).vs.toNat = (65536 + 220 + 65536 - x.toNat - w.toNat) % 65536 ∧
    (rectWindow x y w h).ve.toNat = (65536 + 219 - x.toNat) % 65536 := by
  simp only [rectWindow, panelH, panelV, BitVec.toNat_sub, BitVec.toNat_add, BitVec.toNat_ofNat]
  refine ⟨trivial, ?_, ?_, ?_⟩
  · omega
  · omega
  · omega

/-- Settles O22: the modular expressions of R175, compared as integers; where one of them wraps, the bounds come out in
the wrong order or off the screen. -/
theorem rectWindowRule : Obligations.RectWindowRule := by
  intro x y w h
  obtain ⟨hs, he, vs, ve⟩ := rectWindow_toNat x y w h
  have hx := x.isLt
  have hy := y.isLt
  have hw := w.isLt
  have hh := h.isLt
  rw [validWindow_iff, validRect_iff, hs, he, vs, ve]
  refine ⟨Iff.rfl, ?_, ?_⟩
  · constructor <;> intro hv <;> omega
  · omega

/-- The window of a valid rectangle is valid and has as many cells as the rectangle's burst has words (42 R178). -/
theorem rectWindow_of_validRect {x y w h : Word} (hr : validRect x y w h = true) :
    validWindow (rectWindow x y w h) = true ∧ windowCells (rectWindow x y w h) = w.toNat * h.toNat := by
  obtain ⟨-, window, bounds⟩ := rectWindowRule x y w h
  obtain ⟨hs, he, vs, ve⟩ := bounds hr
  obtain ⟨hw2, hh2, hxw, hyh⟩ := validRect_iff.1 hr
  refine ⟨window.1 hr, ?_⟩
  have height : y.toNat + h.toNat - 1 - y.toNat + 1 = h.toNat := by omega
  have width : 219 - x.toNat - (220 - x.toNat - w.toNat) + 1 = w.toNat := by omega
  rw [windowCells, hs, he, vs, ve, height, width, Nat.mul_comm]

/-! The cells of a burst of pixel words (20_memory R84, R86). -/

/-- Where the cursor stands `k` steps from the start corner of a window, in entry mode 0x1018. -/
def cursorAfter (c : Config) (win : Window) (k : Nat) : Cursor :=
  (advanceCursor c.advance entryModeValue win)^[k] ⟨win.hs, win.vs⟩

theorem cursorAfter_succ (c : Config) (win : Window) (k : Nat) :
    cursorAfter c win (k + 1) = advanceCursor c.advance entryModeValue win (cursorAfter c win k) :=
  Function.iterate_succ_apply' ..

/-- The far end takes pixel words for a window in entry mode 0x1018, the next one at `cur`. -/
structure Panel.TakesPixels (c : Config) (win : Window) (cur : Cursor) (p : Panel) : Prop where
  latched : p.ir = some c.idx.gramRw
  mode : p.readReg c.idx.entryMode = some entryModeValue
  window : p.win c = some win
  cursor : p.cur = some cur

theorem Panel.readReg_of_reg {p q : Panel} (e : q.reg = p.reg) (i : Byte) : q.readReg i = p.readReg i := by
  rw [readReg, readReg, e]

theorem Panel.win_of_reg {p q : Panel} (e : q.reg = p.reg) (c : Config) : q.win c = p.win c := by
  simp only [win, readReg_of_reg e]

/-- The far end after the first `n` of the pixel words `f 0`, `f 1`, and so on. -/
def Panel.afterWords (c : Config) (f : Nat → Word) (n : Nat) (p : Panel) : Panel :=
  (List.range n).foldl (fun q i => Panel.dataWord c (f i) q) p

theorem Panel.afterWords_succ (c : Config) (f : Nat → Word) (n : Nat) (p : Panel) :
    afterWords c f (n + 1) p = Panel.dataWord c (f n) (afterWords c f n p) := by
  simp [afterWords, List.range_succ]

theorem Panel.afterWords_const (c : Config) (w : Word) (n : Nat) (p : Panel) :
    afterWords c (fun _ => w) n p = (Panel.dataWord c w)^[n] p := by
  simp [afterWords, List.foldl_const]

section
variable {c : Config} {win : Window} {p : Panel}

/-- A pixel word on the screen is written at the cursor, which then takes one step (20_memory R84). -/
theorem Panel.TakesPixels.dataWord {cur : Cursor} (h : p.TakesPixels c win cur) (on : onScreen cur = true) (w : Word) :
    (Panel.dataWord c w p).TakesPixels c win (advanceCursor c.advance entryModeValue win cur) := by
  have reg : (Panel.dataWord c w p).reg = p.reg := by rw [dataWord_of_pixel h.latched, pixelWord_reg]
  refine ⟨dataWord_ir_pixel h.latched w, (readReg_of_reg reg _).trans h.mode, (win_of_reg reg c).trans h.window, ?_⟩
  rw [dataWord_of_pixel h.latched, pixelWord_of_on_screen h.cursor on]
  exact cur_advance h.mode h.window

/-- A pixel word on the screen is written at the cursor and nowhere else (20_memory R84). -/
theorem Panel.TakesPixels.readGram_dataWord {cur cell : Cursor} (h : p.TakesPixels c win cur)
    (on : onScreen cur = true) (hc : onScreen cell = true) (w : Word) :
    (Panel.dataWord c w p).readGram cell.h cell.v = if cell = cur then some w else p.readGram cell.h cell.v := by
  rw [dataWord_of_pixel h.latched]
  split
  · rename_i e
    rw [e]
    exact readGram_pixelWord_self h.cursor on w
  · rename_i hn
    refine readGram_pixelWord_ne h.cursor on hc ?_ w
    by_contra same
    push Not at same
    obtain ⟨same_h, same_v⟩ := same
    exact hn (congrArg₂ Cursor.mk same_h same_v)

variable (h : p.TakesPixels c win ⟨win.hs, win.vs⟩) (f : Nat → Word) {n : Nat}
  (on : ∀ k < n, onScreen (cursorAfter c win k) = true)
include h on

theorem Panel.TakesPixels.afterWords : (Panel.afterWords c f n p).TakesPixels c win (cursorAfter c win n) := by
  induction n with
  | zero => exact h
  | succ n ih =>
    rw [afterWords_succ, cursorAfter_succ]
    exact (ih fun k hk => on k (by omega)).dataWord (on n (by omega)) (f n)

/-- Word `n` of a burst is written where the cursor stands after `n` steps. -/
theorem Panel.TakesPixels.readGram_afterWords_succ {cell : Cursor} (hn : onScreen (cursorAfter c win n) = true)
    (hc : onScreen cell = true) :
    (Panel.afterWords c f (n + 1) p).readGram cell.h cell.v =
      if cell = cursorAfter c win n then some (f n) else (Panel.afterWords c f n p).readGram cell.h cell.v := by
  rw [afterWords_succ]
  exact (h.afterWords f on).readGram_dataWord hn hc (f n)

/-- A burst leaves every cell that the cursor does not come to. -/
theorem Panel.TakesPixels.readGram_unvisited {cell : Cursor} (hc : onScreen cell = true)
    (hn : ∀ k < n, cursorAfter c win k ≠ cell) :
    (Panel.afterWords c f n p).readGram cell.h cell.v = p.readGram cell.h cell.v := by
  induction n with
  | zero => rfl
  | succ n ih =>
    have before : ∀ k < n, onScreen (cursorAfter c win k) = true := fun k hk => on k (by omega)
    rw [h.readGram_afterWords_succ f before (on n n.lt_succ_self) hc, if_neg (hn n n.lt_succ_self).symm]
    exact ih before fun k hk => hn k (by omega)

/-- The cell that the cursor comes to after `k` steps, and not again, holds word `k` of the burst. -/
theorem Panel.TakesPixels.readGram_visited {k : Nat} (hk : k < n)
    (once : ∀ j < n, cursorAfter c win j = cursorAfter c win k → j = k) :
    (Panel.afterWords c f n p).readGram (cursorAfter c win k).h (cursorAfter c win k).v = some (f k) := by
  induction n with
  | zero => omega
  | succ n ih =>
    have before : ∀ k < n, onScreen (cursorAfter c win k) = true := fun k hk => on k (by omega)
    rw [h.readGram_afterWords_succ f before (on n n.lt_succ_self) (on k hk)]
    split
    · rename_i e
      rw [once n n.lt_succ_self e.symm]
    · rename_i e
      have hkn : k ≠ n := fun hkn => e (by rw [hkn])
      exact ih before (by omega) fun j hj => once j (by omega)

end

/-! One full pass of the cursor through a valid window, under `AdvanceCovers` (20_memory R86). -/

section
variable {c : Config} {win : Window} (hv : validWindow win = true)
include hv

theorem inWindow_startCorner : inWindow win ⟨win.hs, win.vs⟩ = true := by
  obtain ⟨hh, -, hvv, -⟩ := validWindow_iff.1 hv
  rw [inWindow_iff]
  simp only
  omega

theorem onScreen_of_inWindow {cell : Cursor} (hc : inWindow win cell = true) : onScreen cell = true := by
  obtain ⟨-, hh, -, hvv⟩ := validWindow_iff.1 hv
  rw [inWindow_iff] at hc
  rw [onScreen_iff]
  omega

variable (covers : AdvanceCovers c.advance)
include covers

theorem inWindow_cursorAfter {k : Nat} (hk : k < windowCells win) : inWindow win (cursorAfter c win k) = true := by
  obtain ⟨inside, -, -⟩ := covers win _ hv (inWindow_startCorner hv)
  exact inside k hk

theorem onScreen_cursorAfter {k : Nat} (hk : k < windowCells win) : onScreen (cursorAfter c win k) = true :=
  onScreen_of_inWindow hv (inWindow_cursorAfter hv covers hk)

theorem cursorAfter_inj {j k : Nat} (hj : j < windowCells win) (hk : k < windowCells win)
    (e : cursorAfter c win j = cursorAfter c win k) : j = k := by
  obtain ⟨-, once, -⟩ := covers win _ hv (inWindow_startCorner hv)
  exact (once _ (inWindow_cursorAfter hv covers hk)).unique ⟨hj, e⟩ ⟨hk, rfl⟩

theorem exists_cursorAfter {cell : Cursor} (hc : inWindow win cell = true) :
    ∃ k < windowCells win, cursorAfter c win k = cell := by
  obtain ⟨-, once, -⟩ := covers win _ hv (inWindow_startCorner hv)
  exact (once cell hc).exists

theorem cursorAfter_windowCells : cursorAfter c win (windowCells win) = ⟨win.hs, win.vs⟩ := by
  obtain ⟨-, -, returns⟩ := covers win _ hv (inWindow_startCorner hv)
  exact returns

variable {p : Panel} (h : p.TakesPixels c win ⟨win.hs, win.vs⟩) (f : Nat → Word)
include h

/-- A full pass writes word `k` to the cell the cursor comes to after `k` steps. -/
theorem readGram_of_fullPass {k : Nat} (hk : k < windowCells win) :
    (Panel.afterWords c f (windowCells win) p).readGram (cursorAfter c win k).h (cursorAfter c win k).v = some (f k) :=
  h.readGram_visited f (fun _ => onScreen_cursorAfter hv covers) hk fun _ hj => cursorAfter_inj hv covers hj hk

/-- A full pass leaves the screen outside the window. -/
theorem readGram_outside_of_fullPass {cell : Cursor} (hc : onScreen cell = true) (out : inWindow win cell = false) :
    (Panel.afterWords c f (windowCells win) p).readGram cell.h cell.v = p.readGram cell.h cell.v := by
  refine h.readGram_unvisited f (fun _ => onScreen_cursorAfter hv covers) hc fun k hk e => ?_
  have inside := inWindow_cursorAfter hv covers hk
  rw [e, out] at inside
  cases inside

/-- A full pass brings the cursor back to the start corner. -/
theorem cur_of_fullPass : (Panel.afterWords c f (windowCells win) p).cur = some ⟨win.hs, win.vs⟩ := by
  rw [(h.afterWords f fun _ => onScreen_cursorAfter hv covers).cursor, cursorAfter_windowCells hv covers]

end

/-! The far end at the first word of a rectangle's burst (42 R178, R179). -/

/-- The far end after SETWIN's six writes and the latching of the GRAM register. -/
def Panel.openedAt (c : Config) (win : Window) (p : Panel) : Panel :=
  { (windowTable c win).foldl (Panel.write c) p with ir := some c.idx.gramRw }

/-- None of the registers SETWIN writes is the GRAM register or the soft reset (10_state R40). -/
theorem windowTable_ordinary {c : Config} (hw : c.idx.wellFormed = true) (win : Window) :
    ∀ e ∈ windowTable c win, e.1 ≠ c.idx.gramRw ∧ e.1 ≠ idxSoftReset := by
  have distinct := addressingRegisters_distinct hw
  simp only [addressingRegisters, List.cons_append, List.nil_append, List.pairwise_cons,
    List.forall_mem_cons] at distinct
  simp [windowTable, distinct]

/-- Register writes that are neither pixels nor a reset leave every pixel (20_memory R83). -/
theorem gram_foldl_write {c : Config} {table : List (Byte × Word)}
    (ht : ∀ e ∈ table, e.1 ≠ c.idx.gramRw ∧ e.1 ≠ idxSoftReset) (p : Panel) :
    (table.foldl (Panel.write c) p).gram = p.gram := by
  induction table generalizing p with
  | nil => rfl
  | cons e rest ih =>
    obtain ⟨⟨hg, hs⟩, hrest⟩ := List.forall_mem_cons.1 ht
    rw [List.foldl_cons, ih hrest, Panel.write_eq_registerWord hg, Panel.registerWord_of_ordinary fun h => hs h.1]

section
variable {c : Config} (hw : c.wellFormed = true) (win : Window) (p : Panel)
include hw

/-- SETWIN does not write the entry mode (10_state R40). -/
theorem windowTable_ne_entryMode : ∀ e ∈ windowTable c win, e.1 ≠ c.idx.entryMode := by
  have distinct := (categories_nodup hw).of_append_left
  simp only [RegMap.cfgCategories, List.flatten_cons, List.cons_append, List.nil_append, List.nodup_cons] at distinct
  obtain ⟨-, -, entryMode, -⟩ := distinct
  intro e he same
  simp only [windowTable, List.mem_cons, List.not_mem_nil, or_false] at he
  refine entryMode (same ▸ ?_)
  obtain rfl | rfl | rfl | rfl | rfl | rfl := he <;> simp

theorem Panel.takesPixels_openedAt (hm : p.readReg c.idx.entryMode = some entryModeValue) :
    (p.openedAt c win).TakesPixels c win ⟨win.hs, win.vs⟩ := by
  obtain ⟨window, cursor⟩ := Panel.window_after_windowTable (idx_wellFormed hw) p win
  have mode := (showsRegister_readReg c c.idx.entryMode).foldl_write (table := windowTable c win)
    (fun e he => ⟨windowTable_ne_entryMode hw win e he, windowTable_ordinary (idx_wellFormed hw) win e he⟩) p
  exact ⟨rfl, mode.trans hm, window, cursor⟩

theorem Panel.readGram_openedAt (x y : Word) : (p.openedAt c win).readGram x y = p.readGram x y := by
  simp only [readGram, openedAt, gram_foldl_write (windowTable_ordinary (idx_wellFormed hw) win)]

end

/-! Commands with a check of their own after the admission check (60 R245, R246). -/

section
variable {i : Instr} {s : State} {v : Violation} {o : Option Violation} {effect : State → State}

theorem rejects_of_guard (h : exec i s = checked ((admission .ordinary s).or o) effect s) (hd : s.dstate = .idle)
    (hf : s.frameOpen = false) (ho : o = some v) : Rejects i v s :=
  rejects_of_checked h (by rw [admission_ordinary_none.2 ⟨hd, hf⟩, Option.none_or, ho])

theorem exec_of_guard (h : exec i s = checked ((admission .ordinary s).or o) effect s) (hr : Ready s) (ho : o = none) :
    exec i s = .next (effect s) :=
  exec_of_checked h (by rw [hr.admitted, Option.none_or, ho])

/-- The admission check comes first, so what it finds is raised (60 R246). -/
theorem rejectedUnlessIdle_of_guard {o : State → Option Violation} {effect : State → State → State}
    (h : ∀ s, exec i s = checked ((admission .ordinary s).or (o s)) (effect s) s) : RejectedUnlessIdle i :=
  rejectedUnlessIdle_of_admission fun s _ hv => rejects_of_checked (h s) (by rw [hv, Option.some_or])

theorem exec_setwin (hs he vs ve : Word) (s : State) :
    exec (.setwin hs he vs ve) s =
      checked ((admission .ordinary s).or (require (validWindow ⟨hs, he, vs, ve⟩) .window))
        (setWindow ⟨hs, he, vs, ve⟩) s := rfl

theorem exec_fillrect (x y w h color : Word) (s : State) :
    exec (.fillrect x y w h color) s =
      checked ((admission .ordinary s).or (require (validRect x y w h) .window)) (fillRectangle x y w h color) s := rfl

/-- BLIT's actions on a valid rectangle and buffer (42 R179). -/
def blitRectangle (x y w h : Word) (src : DWord) (s : State) : State :=
  sendBuffer src (rectWords w h) (setWindow (rectWindow x y w h) s)

theorem exec_blit (x y w h : Word) (src : DWord) (s : State) :
    exec (.blit x y w h src) s =
      checked
        ((admission .ordinary s).or
          ((require (validRect x y w h) .window).or (require (validBuffer src (rectWords w h)) .buffer)))
        (blitRectangle x y w h src) s := by
  rw [← Option.or_assoc]
  rfl

theorem exec_fillrect_of_ready {x y w h : Word} (hr : Ready s) (hv : validRect x y w h = true) (color : Word) :
    exec (.fillrect x y w h color) s = .next (fillRectangle x y w h color s) :=
  exec_of_guard (exec_fillrect ..) hr (require_none.2 hv)

theorem exec_blit_of_ready {x y w h : Word} {src : DWord} (hr : Ready s) (hv : validRect x y w h = true)
    (hb : validBuffer src (w.toNat * h.toNat) = true) :
    exec (.blit x y w h src) s = .next (blitRectangle x y w h src s) :=
  exec_of_guard (exec_blit ..) hr (by rw [require_none.2 hv, Option.none_or]; exact require_none.2 hb)

/-- BLIT's actions as their events (42 R179). -/
theorem blitRectangle_withEvents (hf : s.fifo = []) (x y w h : Word) (src : DWord) :
    blitRectangle x y w h src s =
      { s.withEvents (tableEvents (windowTable s.cfg (rectWindow x y w h)) ++
          burstEvents s.cfg (bufferEvents s.mem src.toNat (w.toNat * h.toNat))) with
        cs := .high
        rs := .high } := by
  rw [blitRectangle, sendBuffer_withEvents (by simp), setWindow_withEvents hf, withEvents_append]
  rfl

/-- The far end after FILLRECT: every word of the burst is the colour. -/
theorem fillRectangle_panel (hf : s.fifo = []) (x y w h color : Word) :
    (fillRectangle x y w h color s).panel =
      Panel.afterWords s.cfg (fun _ => color) (w.toNat * h.toNat) (s.panel.openedAt s.cfg (rectWindow x y w h)) := by
  rw [fillRectangle_withEvents hf, Panel.afterWords_const]
  simp [fillrectEvents, burstEvents, Panel.meet, Panel.openedAt]

/-- The far end after BLIT: word `i` of the burst is element `i` of the buffer. -/
theorem blitRectangle_panel (hf : s.fifo = []) (x y w h : Word) (src : DWord) :
    (blitRectangle x y w h src s).panel =
      Panel.afterWords s.cfg (fun i => Memory.element s.mem (src.toNat + 2 * i)) (w.toNat * h.toNat)
        (s.panel.openedAt s.cfg (rectWindow x y w h)) := by
  rw [blitRectangle_withEvents hf]
  simp [burstEvents, Panel.meet, Panel.openedAt, Panel.afterWords]

end

/-- Settles O24: the burst is one full pass of the cursor through the window, every word of it the colour. -/
theorem fillrectPaintsWindow : Obligations.FillrectPaintsWindow := by
  intro s x y w h color t hr hcfg covers hm hv hexec
  rw [exec_fillrect_of_ready hr hv, Host.Outcome.next.injEq] at hexec
  subst hexec
  obtain ⟨window, size⟩ := rectWindow_of_validRect hv
  have opened := Panel.takesPixels_openedAt hcfg (rectWindow x y w h) s.panel hm
  rw [fillRectangle_panel hr.drained, ← size]
  refine ⟨fun cell hc => ?_, fun cell on out => ?_, cur_of_fullPass window covers opened _⟩
  · obtain ⟨k, hk, rfl⟩ := exists_cursorAfter window covers hc
    exact readGram_of_fullPass window covers opened _ hk
  · rw [readGram_outside_of_fullPass window covers opened _ on out, Panel.readGram_openedAt hcfg]

/-- Settles O27: the burst is one full pass of the cursor through the window, word `i` of it element `i`. -/
theorem blitPlacesElements : Obligations.BlitPlacesElements := by
  intro s x y w h src t hr hcfg covers hm hv hb hexec i hi cell hcell
  rw [exec_blit_of_ready hr hv hb, Host.Outcome.next.injEq] at hexec
  subst hexec hcell
  obtain ⟨window, size⟩ := rectWindow_of_validRect hv
  have opened := Panel.takesPixels_openedAt hcfg (rectWindow x y w h) s.panel hm
  rw [← size] at hi
  rw [blitRectangle_panel hr.drained, ← size]
  exact readGram_of_fullPass window covers opened (fun i => Memory.element s.mem (src.toNat + 2 * i)) hi

/-! SETWIN and SETADDR at the far end (42 R170, R171; 20_memory R83). -/

/-- A register write leaves the index it latched (20_memory R82). -/
theorem Panel.ir_write {c : Config} {p : Panel} {i : Byte} {w : Word} (hg : i ≠ c.idx.gramRw)
    (hs : i ≠ idxSoftReset) : (Panel.write c p (i, w)).ir = some i := by
  rw [write_eq_registerWord hg, registerWord_of_ordinary fun h => hs h.1]

/-- A table that ends with a write to the second RAM-address register leaves that index latched. -/
theorem Panel.ir_foldl_write_ramAddr2 {c : Config} (hw : c.idx.wellFormed = true) (table : List (Byte × Word))
    (v : Word) (p : Panel) :
    ((table ++ [(c.idx.ramAddr2, v)]).foldl (Panel.write c) p).ir = some c.idx.ramAddr2 := by
  obtain ⟨hg, hs⟩ := windowTable_ordinary hw ⟨v, v, v, v⟩ (c.idx.ramAddr2, v) (by simp [windowTable])
  rw [List.foldl_append]
  exact ir_write hg hs

theorem require_eq_some {ok : Bool} (h : ¬ok = true) (v : Violation) : require ok v = some v := by
  rw [Bool.eq_false_of_not_eq_true h, require_false]

/-- Settles O19: the window's check, then six register writes, off which the window, the cursor and the latch are
read. -/
theorem setwinRule : Obligations.SetwinRule := by
  refine fun hs he vs ve => ⟨rfl, rejectedUnlessIdle_of_guard (exec_setwin hs he vs ve),
    fun s => ⟨fun hd hf hn => ?_, fun hr h1 h2 h3 h4 => ?_⟩⟩
  · exact rejects_of_guard (exec_setwin ..) hd hf (require_eq_some (mt validWindow_iff.1 hn) _)
  · have valid : validWindow ⟨hs, he, vs, ve⟩ = true := validWindow_iff.2 ⟨h1, h2, h3, h4⟩
    refine ⟨_, exec_of_guard (exec_setwin ..) hr (require_none.2 valid), setWindow_withEvents hr.drained _,
      fun hcfg => ?_⟩
    have hw := idx_wellFormed hcfg
    obtain ⟨window, cursor⟩ := window_after_setWindow hr rfl hw ⟨hs, he, vs, ve⟩
    refine ⟨window, cursor, ?_⟩
    rw [setWindow_panel hr.drained]
    exact Panel.ir_foldl_write_ramAddr2 hw ((windowTable s.cfg ⟨hs, he, vs, ve⟩).dropLast) vs s.panel

/-- Settles O20: an ordinary command of two register writes, with no check of its operands. -/
theorem setaddrRule : Obligations.SetaddrRule := by
  refine fun x y => ⟨rfl, rejectedUnlessIdle_of_admission fun _ _ => rejects_of_checked rfl, fun s hr => ?_⟩
  refine ⟨_, exec_setaddr_of_ready hr rfl x y, ?_, fun hcfg => ?_⟩
  · rw [writeRegisters_withEvents hr.drained (by simp [addressTable])]
    simp [addressTable, tableEvents]
  · have hw := idx_wellFormed hcfg
    obtain ⟨window, cursor⟩ := window_after_setaddr hr rfl hw x y
    refine ⟨cursor, window, ?_⟩
    rw [writeRegisters_panel hr.drained]
    exact Panel.ir_foldl_write_ramAddr2 hw [(s.cfg.idx.ramAddr1, x)] y s.panel

/-! FILLRECT, FILL and BLIT as commands (42 R177 to R179). -/

/-- Settles O23: the rectangle's check, then the events of the window and of the burst. -/
theorem fillrectRule : Obligations.FillrectRule := by
  refine fun x y w h color => ⟨rfl, rejectedUnlessIdle_of_guard (exec_fillrect x y w h color),
    fun s => ⟨fun hd hf hn => ?_, fun hr hv => ?_⟩⟩
  · exact rejects_of_guard (exec_fillrect ..) hd hf (by rw [hn, require_false])
  · rw [exec_fillrect_of_ready hr hv, fillRectangle_withEvents hr.drained]

/-- FILL and the full-screen FILLRECT have the same checks, since that rectangle is valid, and the same effect. -/
theorem exec_fill_eq_fillrect (color : Word) (s : State) :
    exec (.fill color) s = exec (.fillrect 0#16 0#16 220#16 176#16 color) s := by
  have valid : validRect 0#16 0#16 220#16 176#16 = true := by decide
  rw [exec_fillrect, require_none.2 valid, Option.or_none]
  rfl

/-- The events of the full-screen FILLRECT (42 R177). -/
theorem fillrectEvents_full_screen (c : Config) (color : Word) :
    fillrectEvents c 0#16 0#16 220#16 176#16 color =
      tableEvents (windowTable c ⟨0#16, 175#16, 0#16, 219#16⟩) ++
        burstEvents c (List.replicate 38720 (.tx .high color)) := by
  have window : rectWindow 0#16 0#16 220#16 176#16 = ⟨0#16, 175#16, 0#16, 219#16⟩ := by decide
  have words : (220#16).toNat * (176#16).toNat = 38720 := by decide
  rw [fillrectEvents, window, words]

/-- Settles O25: FILL is a valid FILLRECT, whose rule gives its next state. -/
theorem fillIsFullScreenRect : Obligations.FillIsFullScreenRect := by
  refine fun color => ⟨rfl, exec_fill_eq_fillrect color, fun s hr => ?_⟩
  obtain ⟨-, -, admitted⟩ := fillrectRule 0#16 0#16 220#16 176#16 color
  rw [exec_fill_eq_fillrect, (admitted s).2 hr (by decide), fillrectEvents_full_screen]

/-- `ValidBuffer` on the burst of a valid rectangle, which is never empty (43_pixel_transfer R204). -/
theorem validBuffer_iff_of_validRect {x y w h : Word} (hv : validRect x y w h = true) (src : DWord) :
    validBuffer src (w.toNat * h.toNat) = true ↔
      src.toNat ≠ 0 ∧ src.toNat % 2 = 0 ∧ src.toNat + 2 * (w.toNat * h.toNat) ≤ 2 ^ 32 := by
  obtain ⟨hw, hh, -⟩ := validRect_iff.1 hv
  have nonempty : 0 < w.toNat * h.toNat := Nat.mul_pos (by omega) (by omega)
  have null : src ≠ 0#32 ↔ src.toNat ≠ 0 := by simp [← BitVec.toNat_inj]
  simp [validBuffer, nonempty, null, and_assoc]

/-- Settles O26: the rectangle's check, then the buffer's, then the events of the window and of the burst. -/
theorem blitRule : Obligations.BlitRule := by
  refine fun x y w h src => ⟨rfl, rejectedUnlessIdle_of_guard (exec_blit x y w h src),
    fun s => ⟨fun hd hf hn => ?_, fun hd hf hv hn => ?_, fun hr hv h0 h2 hm => ?_⟩⟩
  · exact rejects_of_guard (exec_blit ..) hd hf (by rw [hn, require_false, Option.some_or])
  · rw [← validBuffer_iff_of_validRect hv] at hn
    exact rejects_of_guard (exec_blit ..) hd hf (by rw [require_none.2 hv, Option.none_or]; exact require_eq_some hn _)
  · rw [exec_blit_of_ready hr hv ((validBuffer_iff_of_validRect hv src).2 ⟨h0, h2, hm⟩),
      blitRectangle_withEvents hr.drained]

/-! No command reads the far end (42 R173). -/

/-- `t` is `s` with, it may be, another far end. -/
def SameEngine (s t : State) : Prop :=
  ∃ q, t = { s with panel := q }

namespace SameEngine

section
variable {s t : State} (h : SameEngine s t)
include h

/-! An operation of two states that differ in the far end alone answers two such states. -/

theorem emit (e : Event) : SameEngine (emit e s) (emit e t) := by
  obtain ⟨q, rfl⟩ := h
  exact ⟨q, rfl⟩

theorem driveCs (l : Level) : SameEngine (driveCs l s) (driveCs l t) := by
  obtain ⟨q, rfl⟩ := h
  exact ⟨q, rfl⟩

theorem driveRs (l : Level) : SameEngine (driveRs l s) (driveRs l t) := by
  obtain ⟨q, rfl⟩ := h
  exact ⟨q, rfl⟩

theorem driveRst (l : Level) : SameEngine (driveRst l s) (driveRst l t) := by
  obtain ⟨q, rfl⟩ := h
  exact ⟨_, rfl⟩

theorem driveBl (l : Lamp) : SameEngine (driveBl l s) (driveBl l t) := by
  obtain ⟨q, rfl⟩ := h
  exact ⟨q, rfl⟩

theorem driveLed (l : Lamp) : SameEngine (driveLed l s) (driveLed l t) := by
  obtain ⟨q, rfl⟩ := h
  unfold Machine.driveLed
  split
  · exact ⟨q, rfl⟩
  · exact ⟨q, rfl⟩

theorem raise (v : Violation) : SameEngine (raise v s) (raise v t) := by
  obtain ⟨q, rfl⟩ := h
  exact ⟨q, rfl⟩

theorem shiftOut (w : Word) : SameEngine (shiftOut w s) (shiftOut w t) := by
  obtain ⟨q, rfl⟩ := h
  exact ⟨_, rfl⟩

theorem receiveWord (v : Word) : SameEngine (receiveWord v s) (receiveWord v t) := by
  obtain ⟨q, rfl⟩ := h
  exact ⟨_, rfl⟩

/-- The word of a read is the same when the latched index is: it depends on nothing else of the far end (log 9). -/
theorem rx (hi : s.panel.ir = t.panel.ir) : rxWord s = rxWord t ∧ SameEngine (rx s) (rx t) := by
  obtain ⟨q, rfl⟩ := h
  have word : rxWord s = rxWord { s with panel := q } := by
    simp only [rxWord, Panel.readAnswer, hi]
  refine ⟨word, ?_⟩
  rw [Machine.rx, Machine.rx, ← word]
  exact receiveWord ⟨q, rfl⟩ _

theorem shiftAll (ws : List Word) : SameEngine (shiftAll ws s) (shiftAll ws t) := by
  induction ws generalizing s t with
  | nil => exact h
  | cons w rest ih => exact ih (h.shiftOut w)

theorem tx (w : Word) : SameEngine (tx w s) (tx w t) := by
  obtain ⟨q, rfl⟩ := h
  exact shiftAll ⟨q, rfl⟩ _

theorem indexFrame (a : Byte) : SameEngine (indexFrame a s) (indexFrame a t) :=
  (((h.driveRs _).driveCs _).tx _).driveCs _

theorem dataFrame (v : Word) : SameEngine (dataFrame v s) (dataFrame v t) :=
  (((h.driveRs _).driveCs _).tx _).driveCs _

theorem writeRegister (a : Byte) (v : Word) : SameEngine (writeRegister a v s) (writeRegister a v t) :=
  (h.indexFrame a).dataFrame v

theorem writeRegisters (table : List (Byte × Word)) : SameEngine (writeRegisters table s) (writeRegisters table t) := by
  induction table generalizing s t with
  | nil => exact h
  | cons e rest ih => exact ih (h.writeRegister e.1 e.2)

/-- A read latches its own index first, so the far ends agree on it (40_register_protocol R133). -/
theorem readRegister (a : Byte) : SameEngine (readRegister a s) (readRegister a t) := by
  have selected := ((h.indexFrame a).driveRs .high).driveCs .low
  obtain ⟨word, received⟩ := selected.rx (by simp [indexFrame_ir])
  obtain ⟨q, closed⟩ := received.driveCs .high
  exact ⟨q, by simp only [Machine.readRegister, ← word, closed]⟩

theorem openBurst : SameEngine (openBurst s) (openBurst t) := by
  obtain ⟨q, rfl⟩ := h
  exact ((indexFrame ⟨q, rfl⟩ _).driveRs _).driveCs _

theorem txRepeat (n : Nat) (w : Word) : SameEngine (txRepeat n w s) (txRepeat n w t) := by
  induction n generalizing s t with
  | zero => exact h
  | succ n ih => exact ih (h.tx w)

theorem txBuffer (n a : Nat) : SameEngine (txBuffer n a s) (txBuffer n a t) := by
  induction n generalizing a s t with
  | zero => exact h
  | succ n ih =>
    obtain ⟨q, rfl⟩ := h
    exact ih (tx (emit ⟨q, rfl⟩ _) _) _

theorem setWindow (win : Window) : SameEngine (setWindow win s) (setWindow win t) := by
  obtain ⟨q, rfl⟩ := h
  exact writeRegisters ⟨q, rfl⟩ _

theorem sendBuffer (src : DWord) (n : Nat) : SameEngine (sendBuffer src n s) (sendBuffer src n t) :=
  (h.openBurst.txBuffer _ _).driveCs _

theorem fillRectangle (x y w height color : Word) :
    SameEngine (fillRectangle x y w height color s) (fillRectangle x y w height color t) :=
  ((h.setWindow _).openBurst.txRepeat _ _).driveCs _

theorem openFrame :
    SameEngine { Machine.openBurst s with frameOpen := true } { Machine.openBurst t with frameOpen := true } := by
  obtain ⟨q, opened⟩ := h.openBurst
  exact ⟨q, by rw [opened]⟩

theorem closeFrame :
    SameEngine { closeBurst s with frameOpen := false } { closeBurst t with frameOpen := false } := by
  obtain ⟨q, rfl⟩ := h
  exact ⟨q, rfl⟩

/-- SETCB's action (43_pixel_transfer R208). -/
theorem bindCallback (line : Byte) (fn : DWord) :
    SameEngine { s with cbLine := line, cbFn := fn, cbValid := true }
      { t with cbLine := line, cbFn := fn, cbValid := true } := by
  obtain ⟨q, rfl⟩ := h
  exact ⟨q, rfl⟩

/-- DMAWR's actions (43_pixel_transfer R206). -/
theorem startTransfer (src n : DWord) : SameEngine (startTransfer src n s) (startTransfer src n t) := by
  obtain ⟨q, opened⟩ := h.openBurst
  exact ⟨q, by simp only [Machine.startTransfer, Machine.emit, opened]⟩

/-! INIT's stages (41_init_sequencer R151 to R159). -/

theorem initPinArm : SameEngine (initPinArm s) (initPinArm t) :=
  (((((h.driveRst _).driveCs _).driveRs _).driveBl _).driveLed _).emit _

theorem initResetPulse : SameEngine (initResetPulse s) (initResetPulse t) :=
  (((h.driveRst _).emit _).driveRst _).emit _

/-- A stage that writes a table of the parameters and then waits (R154 to R158). -/
theorem tableStage (ms : Nat) (table : Config → List (Byte × Word)) :
    SameEngine (delay ms (Machine.writeRegisters (table s.cfg) s))
      (delay ms (Machine.writeRegisters (table t.cfg) t)) := by
  obtain ⟨q, rfl⟩ := h
  exact (writeRegisters ⟨q, rfl⟩ _).emit _

theorem initPowerZero : SameEngine (initPowerZero s) (initPowerZero t) :=
  h.tableStage 40 fun c => c.idx.powerCtrl.map fun i => (i, 0x0000#16)

theorem initPowerOn : SameEngine (initPowerOn s) (initPowerOn t) :=
  h.tableStage 10 fun c => c.init.pwrOn

theorem initBooster : SameEngine (initBooster s) (initBooster t) :=
  h.tableStage 50 fun c => [(c.idx.powerCtrl2, c.init.boost)]

theorem initConfigTable : SameEngine (initConfigTable s) (initConfigTable t) :=
  h.tableStage 50 fun c => c.init.cfg ++ c.idx.gamma.zip c.init.gamma

theorem initDisplayOn : SameEngine (initDisplayOn s) (initDisplayOn t) :=
  h.tableStage 50 fun c => [(c.idx.dispCtrl, c.init.dispOn)]

theorem configureDescriptor : SameEngine (configureDescriptor s) (configureDescriptor t) := by
  obtain ⟨q, rfl⟩ := h
  exact ⟨q, rfl⟩

theorem initSequence : SameEngine (initSequence s) (initSequence t) :=
  have registers := h.initPinArm.initResetPulse.initPowerZero.initPowerOn.initBooster.initConfigTable.initDisplayOn
  ((registers.driveBl _).driveLed _).configureDescriptor

theorem initIdCheck : SameEngine (initIdCheck s) (initIdCheck t) := by
  obtain ⟨q, rfl⟩ := h
  unfold Machine.initIdCheck
  split
  · obtain ⟨q', read⟩ := readRegister ⟨q, rfl⟩ s.cfg.idx.driverCode
    exact ⟨q', by rw [read]⟩
  · exact ⟨q, rfl⟩

end

end SameEngine

/-- If `x` is a next state, so is `y`, and the two differ in the far end alone. -/
def AnswersAlike (x y : Host.Outcome State Fault Refusal) : Prop :=
  ∀ t, x = .next t → ∃ q, y = .next { t with panel := q }

section
variable {s s' : State}

theorem answersAlike_next (h : SameEngine s s') : AnswersAlike (.next s) (.next s') := by
  rintro t ⟨⟩
  obtain ⟨q, rfl⟩ := h
  exact ⟨q, rfl⟩

variable {effect effect' : State → State}

/-- The checks read no far end, so the same violation is found, and recorded alike (60 R243). -/
theorem answersAlike_checked (h : SameEngine s s') (o : Option Violation)
    (he : SameEngine (effect s) (effect' s')) :
    AnswersAlike (checked o effect s) (checked o effect' s') := by
  cases o with
  | some v => exact answersAlike_next (h.raise v)
  | none => exact answersAlike_next he

theorem answersAlike_whileSelected (h : SameEngine s s') (he : SameEngine (effect s) (effect' s')) :
    AnswersAlike (whileSelected effect s) (whileSelected effect' s') := by
  intro t ht
  obtain ⟨low, rfl⟩ := whileSelected_cases ht
  have low' : s'.cs = .low := by
    obtain ⟨q, rfl⟩ := h
    exact low
  rw [whileSelected_low low']
  exact answersAlike_next he _ rfl

end

theorem exec_pxword_of_rejected {s : State} {v : Violation} (ha : admission .inFrame s = some v) (w : Word) :
    exec (.pxword w) s = .next (raise v s) := by
  simp only [exec, execPxword, ha]

theorem exec_pxword_of_admitted {s : State} (ha : admission .inFrame s = none) (w : Word) :
    exec (.pxword w) s = whileSelected (tx w) s := by
  simp only [exec, execPxword, ha]

theorem pxword_answersAlike (w : Word) (s : State) (p : Panel) :
    AnswersAlike (exec (.pxword w) s) (exec (.pxword w) { s with panel := p }) := by
  have h : SameEngine s { s with panel := p } := ⟨p, rfl⟩
  have admission_eq : admission .inFrame { s with panel := p } = admission .inFrame s := rfl
  cases ha : admission .inFrame s with
  | some v =>
    rw [exec_pxword_of_rejected ha, exec_pxword_of_rejected (admission_eq.trans ha)]
    exact answersAlike_next (h.raise v)
  | none =>
    rw [exec_pxword_of_admitted ha, exec_pxword_of_admitted (admission_eq.trans ha)]
    exact answersAlike_whileSelected h (h.tx w)

/-- Each instruction's checks read no far end, and each of its operations none but the index that a read has latched. -/
theorem exec_answersAlike (i : Instr) (s : State) (p : Panel) :
    AnswersAlike (exec i s) (exec i { s with panel := p }) := by
  have h : SameEngine s { s with panel := p } := ⟨p, rfl⟩
  cases i with
  | wridx a =>
    simp only [exec, execWridx]
    exact answersAlike_checked h _ (h.indexFrame a)
  | wrdat v =>
    simp only [exec, execWrdat]
    exact answersAlike_checked h _ (h.dataFrame v)
  | setreg a v =>
    simp only [exec, execSetreg]
    exact answersAlike_checked h _ (h.writeRegister a v)
  | getreg a =>
    simp only [exec, execGetreg]
    exact answersAlike_checked h _ (h.readRegister a)
  | setwin hs he vs ve =>
    simp only [exec, execSetwin]
    exact answersAlike_checked h _ (h.setWindow _)
  | setaddr x y =>
    simp only [exec, execSetaddr]
    exact answersAlike_checked h _ (h.writeRegisters _)
  | pxstart =>
    simp only [exec, execPxstart]
    exact answersAlike_checked h _ h.openFrame
  | pxword w => exact pxword_answersAlike w s p
  | pxend =>
    simp only [exec, execPxend]
    exact answersAlike_checked h _ h.closeFrame
  | wrpix src n =>
    simp only [exec, execWrpix]
    exact answersAlike_checked h _ (h.sendBuffer src _)
  | dmawr src n =>
    simp only [exec, execDmawr]
    exact answersAlike_checked h _ (h.startTransfer src n)
  | fill color =>
    simp only [exec, execFill]
    exact answersAlike_checked h _ (h.fillRectangle ..)
  | fillrect x y w height color =>
    simp only [exec, execFillrect]
    exact answersAlike_checked h _ (h.fillRectangle ..)
  | blit x y w height src =>
    simp only [exec, execBlit]
    exact answersAlike_checked h _ ((h.setWindow _).sendBuffer src _)
  | init =>
    simp only [exec, execInit]
    exact answersAlike_checked h _ h.initSequence.initIdCheck
  | setcb line fn =>
    simp only [exec, execSetcb]
    exact answersAlike_checked h _ (h.bindCallback line fn)
  | waitcb =>
    simp only [exec, execWaitcb]
    exact answersAlike_checked h _ h
  | wIdx a =>
    intro t ht
    obtain ⟨hr, hc, rfl⟩ := execWIdx_cases ht
    rw [exec_wIdx_of_selected (s := { s with panel := p }) hc hr]
    exact answersAlike_next (h.shiftOut _) _ rfl
  | wDat d =>
    intro t ht
    obtain ⟨hr, hc, rfl⟩ := execWDat_cases ht
    rw [exec_wDat_of_selected (s := { s with panel := p }) hc hr]
    exact answersAlike_next (h.shiftOut _) _ rfl
  | wRd v =>
    intro t ht
    obtain ⟨hs, hr, hc, rfl⟩ := execWRd_cases ht
    rw [exec_wRd_of_selected (s := { s with panel := p }) hc hr hs]
    exact answersAlike_next (h.receiveWord v) _ rfl

/-- Settles O28: every instruction answers alike when the far ends differ. -/
theorem engineIgnoresFarEnd : Obligations.EngineIgnoresFarEnd :=
  fun i s t p h => exec_answersAlike i s p t h

end Sys2Proof.Machine
end

section
/-!
PROOFS. The family of 43_pixel_transfer: the pixel commands, the three agents of a DMA transfer, what a step of any
agent does to a transfer in flight, and that every weakly fair run ends it.
-/

namespace Sys2Proof.Machine

/-! The agents' turns (43 R211 to R213). -/

section
variable {s t : State}

theorem dmaPushEnabled_iff :
    dmaPushEnabled s = true ↔ s.dstate = .armed ∧ s.tdRem ≠ 0#32 ∧ s.fifo.length < s.cfg.fifoDepth := by
  simp [dmaPushEnabled, dataRequest, and_assoc]

/-- `DmaPush` as one update of the state (43 R211). -/
theorem dmaPush_of_enabled (h : dmaPushEnabled s = true) :
    dmaPush s =
      { s with
        fifo := s.fifo ++ [memReadWord (dmaAddress s) s]
        tdRem := s.tdRem - 1#32
        traceRev := .memRead (dmaAddress s) (memReadWord (dmaAddress s) s) :: s.traceRev } := by
  simp [dmaPush, h, memRead, emit]

theorem dmaPush_of_not_enabled (h : ¬dmaPushEnabled s = true) : dmaPush s = s :=
  if_neg h

theorem dmaDoneEnabled_iff :
    dmaDoneEnabled s = true ↔ s.dstate = .armed ∧ s.tdRem = 0#32 ∧ s.fifo = [] ∧ s.irqPending = false := by
  simp [dmaDoneEnabled, and_assoc]

/-- `DmaDone` as one update of the state (43 R213). -/
theorem dmaDone_of_enabled (h : dmaDoneEnabled s = true) :
    dmaDone s = { s with irqPending := true, traceRev := .irqRaise s.cbLine :: s.traceRev } :=
  if_pos h

theorem dmaDone_of_not_enabled (h : ¬dmaDoneEnabled s = true) : dmaDone s = s :=
  if_neg h

theorem shiftTurn_of_nil (h : s.fifo = []) : shiftTurn exec s = .next s := by
  simp [shiftTurn, h]

/-- With RS high the FIFO's head leaves as a W-DAT item (43 R212, 30 R100). -/
theorem shiftTurn_of_word {v : Word} {rest : List Word} (h : s.fifo = v :: rest) (hr : s.rs = .high) :
    shiftTurn exec s = exec (.wDat v) { s with fifo := rest } := by
  simp [shiftTurn, h, hr, decodeWire_sent_high]

/-- Inside a CS-low interval with RS high that word is `TX(1, v)` (43 R212, 20_memory R89). -/
theorem shiftTurn_of_selected {v : Word} {rest : List Word} (h : s.fifo = v :: rest) (hc : s.cs = .low)
    (hr : s.rs = .high) :
    shiftTurn exec s = .next
      { s with
        fifo := rest
        panel := Panel.consume s.cfg .high v s.panel
        traceRev := .tx .high v :: s.traceRev } := by
  rw [shiftTurn_of_word h hr, exec_wDat_of_selected (s := { s with fifo := rest }) hc hr]
  simp only [shiftOut, emit, hr]

theorem Wait.lift_eq (w : Wait) : w.lift = if w = .holding then .lifted else w := by
  cases w <;> rfl

end

/-- Settles O36: the step is `dmaPush`, enabled or not. -/
theorem dmaPushRule : Obligations.DmaPushRule := by
  intro s turns ht
  have acts : step s = .next (dmaPush { s with turns := turns }) := step_of_turn ht
  refine ⟨fun ha hr hq a v hav hv => ?_, fun hn => ?_⟩
  · subst hav hv
    have enabled : dmaPushEnabled { s with turns := turns } = true := dmaPushEnabled_iff.2 ⟨ha, hr, hq⟩
    rw [acts, dmaPush_of_enabled enabled]
    rfl
  · have passes : ¬dmaPushEnabled { s with turns := turns } = true := mt dmaPushEnabled_iff.1 hn
    rw [acts, dmaPush_of_not_enabled passes]

/-- Settles O37: the head leaves as a W-DAT item, which runs while CS is low. -/
theorem shiftRule : Obligations.ShiftRule := by
  intro s turns ht
  have acts : step s = shiftTurn exec { s with turns := turns } := step_of_turn ht
  exact ⟨fun v rest hf hr => acts.trans (shiftTurn_of_word hf hr),
    fun v rest hf hc hr => acts.trans (shiftTurn_of_selected hf hc hr), fun hf => acts.trans (shiftTurn_of_nil hf)⟩

/-- Settles O38: the step is `dmaDone`, enabled or not. -/
theorem dmaDoneRule : Obligations.DmaDoneRule := by
  intro s turns ht
  have acts : step s = .next (dmaDone { s with turns := turns }) := step_of_turn ht
  refine ⟨fun ha hr hf hp => ?_, fun hn => ?_⟩
  · have enabled : dmaDoneEnabled { s with turns := turns } = true := dmaDoneEnabled_iff.2 ⟨ha, hr, hf, hp⟩
    rw [acts, dmaDone_of_enabled enabled]
  · have passes : ¬dmaDoneEnabled { s with turns := turns } = true := mt dmaDoneEnabled_iff.1 hn
    rw [acts, dmaDone_of_not_enabled passes]

/-- Settles O39: the step is `irqHandler`, which lifts what holds. -/
theorem irqHandlerRule : Obligations.IrqHandlerRule := by
  intro s turns ht
  have acts : step s = .next (irqHandler { s with turns := turns }) := step_of_turn ht
  refine ⟨fun hp => ?_, fun hp => ?_⟩
  · rw [acts, irqHandler_of_pending (s := { s with turns := turns }) hp, Wait.lift_eq, Wait.lift_eq]
    rfl
  · rw [acts, irqHandler_of_not_pending (s := { s with turns := turns }) hp]

/-! What a turn does, with the invariant (00_scope R15). -/

/-- Everything a turn can do: the HOST's contexts issue, the HOST stores, an agent does what it is for, or, with none of
the transfer's agents to act, the turn passes. -/
inductive TurnEffect (s : State) : Turn → State → Prop where
  | host {t : State} : contextTurn exec .thread s = .next t → TurnEffect s .host t
  | callback (words : List Word) {t : State} : contextTurn exec .interrupt (extendCallback words s) = .next t →
      TurnEffect s (.callback words) t
  | stores (elem : BitVec 31) (v : Word) : TurnEffect s (.hostStore elem v) (hostStore elem v s)
  | passes (turn : Turn) : (∀ a : Agent, a.acts { s with turns := [turn] } = false) → TurnEffect s turn s
  | reads : dmaPushEnabled s = true → TurnEffect s .dmaPush
      { s with
        fifo := s.fifo ++ [memReadWord (dmaAddress s) s]
        tdRem := s.tdRem - 1#32
        traceRev := .memRead (dmaAddress s) (memReadWord (dmaAddress s) s) :: s.traceRev }
  | sends (v : Word) (rest : List Word) : s.fifo = v :: rest → TurnEffect s .shift
      { s with
        fifo := rest
        panel := Panel.consume s.cfg .high v s.panel
        traceRev := .tx .high v :: s.traceRev }
  | raises : dmaDoneEnabled s = true →
      TurnEffect s .dmaDone { s with irqPending := true, traceRev := .irqRaise s.cbLine :: s.traceRev }
  | handles : s.irqPending = true → TurnEffect s .irqHandler
      { s with
        cs := .high
        dstate := .idle
        irqPending := false
        wait := s.wait.lift
        cbWait := s.cbWait.lift
        traceRev := [.callback s.cbFn, .irqClear s.cbLine, .pin .cs .high] ++ s.traceRev }

section
variable {s t : State}

theorem turnEffect_of_runTurn {turn : Turn} (hi : EngineInv s) (h : runTurn exec turn s = .next t) :
    TurnEffect s turn t := by
  cases turn with
  | host => exact .host h
  | callback words => exact .callback words h
  | hostStore elem v =>
    injection h with h
    exact h ▸ .stores elem v
  | panelDrives v =>
    injection (hi.panelTurn_eq v).symm.trans h with h
    exact h ▸ .passes _ fun a => by cases a <;> rfl
  | dmaPush =>
    injection h with h
    by_cases hp : dmaPushEnabled s = true
    · exact h ▸ (dmaPush_of_enabled hp).symm ▸ .reads hp
    · refine h ▸ (dmaPush_of_not_enabled hp).symm ▸ .passes _ fun a => ?_
      cases a with
      | dma => exact Bool.eq_false_of_not_eq_true hp
      | _ => rfl
  | shift =>
    cases hf : s.fifo with
    | nil =>
      injection (shiftTurn_of_nil hf).symm.trans h with h
      refine h ▸ .passes _ fun a => ?_
      cases a with
      | shifter => simp [Agent.acts, takeTurn, hf]
      | _ => rfl
    | cons v words =>
      have low := hi.selected_of_armed (hi.armed_of_fifo (by simp [hf]))
      injection (shiftTurn_of_selected hf low (hi.selected_pixels low).1).symm.trans h with h
      exact h ▸ .sends v words hf
  | dmaDone =>
    injection h with h
    by_cases hp : dmaDoneEnabled s = true
    · exact h ▸ (dmaDone_of_enabled hp).symm ▸ .raises hp
    · refine h ▸ (dmaDone_of_not_enabled hp).symm ▸ .passes _ fun a => ?_
      cases a with
      | irq => exact Bool.eq_false_of_not_eq_true hp
      | _ => rfl
  | irqHandler =>
    injection h with h
    cases hp : s.irqPending with
    | true => exact h ▸ (irqHandler_of_pending hp).symm ▸ .handles hp
    | false =>
      refine h ▸ (irqHandler_of_not_pending hp).symm ▸ .passes _ fun a => ?_
      cases a with
      | irq => exact hp
      | _ => rfl

theorem turnEffect_of_step (hi : EngineInv s) (h : step s = .next t) :
    ∃ turns, TurnEffect { s with turns := turns } (takeTurn s).1 t := by
  obtain ⟨rest, he⟩ := takeTurn_eq s
  exact ⟨rest, he ▸ turnEffect_of_runTurn hi.takeTurn h⟩

/-- Whether an agent acts is a matter of whose turn it is, and not of the rest of the schedule. -/
theorem Agent.acts_of_turn (a : Agent) (s : State) (turns : List Turn) :
    a.acts { { s with turns := turns } with turns := [(takeTurn s).1] } = a.acts s := rfl

end

/-! What a step does to a transfer in flight (43 R211 to R216). -/

/-- From `s` to `t` the transfer stays where it is, and the trace gains at most the record of a rejected command. -/
structure SameTransfer (s t : State) : Prop where
  cfg : t.cfg = s.cfg
  cs : t.cs = s.cs
  dstate : t.dstate = s.dstate
  tdSrc : t.tdSrc = s.tdSrc
  tdCount : t.tdCount = s.tdCount
  tdRem : t.tdRem = s.tdRem
  cbFn : t.cbFn = s.cbFn
  cbLine : t.cbLine = s.cbLine
  irqPending : t.irqPending = s.irqPending
  fifo : t.fifo = s.fifo
  trace : t.traceRev = s.traceRev ∨ ∃ v, t.traceRev = .violation v :: s.traceRev

/-- What a step can be while a transfer is armed: no agent of the transfer acts; or one of them does what it is for. -/
inductive TransferStep (s t : State) : Prop where
  | passes : SameTransfer s t → (∀ a : Agent, a.acts s = false) → TransferStep s t
  | reads (turns : List Turn) : (takeTurn s).1 = .dmaPush → dmaPushEnabled s = true →
      t = { s with
        turns := turns
        fifo := s.fifo ++ [memReadWord (dmaAddress s) s]
        tdRem := s.tdRem - 1#32
        traceRev := .memRead (dmaAddress s) (memReadWord (dmaAddress s) s) :: s.traceRev } → TransferStep s t
  | sends (turns : List Turn) (v : Word) (rest : List Word) : (takeTurn s).1 = .shift → s.fifo = v :: rest →
      t = { s with
        turns := turns
        fifo := rest
        panel := Panel.consume s.cfg .high v s.panel
        traceRev := .tx .high v :: s.traceRev } → TransferStep s t
  | raises (turns : List Turn) : (takeTurn s).1 = .dmaDone → dmaDoneEnabled s = true →
      t = { s with turns := turns, irqPending := true, traceRev := .irqRaise s.cbLine :: s.traceRev } → TransferStep s t
  | ends (turns : List Turn) : (takeTurn s).1 = .irqHandler → s.irqPending = true →
      t = { s with
        turns := turns
        cs := .high
        dstate := .idle
        irqPending := false
        wait := s.wait.lift
        cbWait := s.cbWait.lift
        traceRev := [.callback s.cbFn, .irqClear s.cbLine, .pin .cs .high] ++ s.traceRev } → TransferStep s t

section
variable {s t : State}

theorem SameTransfer.refl (s : State) : SameTransfer s s :=
  ⟨rfl, rfl, rfl, rfl, rfl, rfl, rfl, rfl, rfl, rfl, .inl rfl⟩

theorem SameTransfer.raise (s : State) (v : Violation) : SameTransfer s (raise v s) :=
  ⟨rfl, rfl, rfl, rfl, rfl, rfl, rfl, rfl, rfl, rfl, .inr ⟨v, rfl⟩⟩

theorem SameTransfer.advance (h : SameTransfer s t) (c : Context) (len : Nat) : SameTransfer s (advance c len t) := by
  cases c <;> exact { h with }

theorem SameTransfer.setWait (h : SameTransfer s t) (c : Context) (w : Wait) : SameTransfer s (setWait c w t) := by
  cases c <;> exact { h with }

/-- During a transfer a command is rejected, or it is a WAITCB, which has no effect (60 R245). -/
theorem Executes.of_armed {i : Instr} (h : Executes s i t) (hi : i.isCommand = true) (ha : s.dstate = .armed) :
    t = s ∨ ∃ v, t = Machine.raise v s := by
  have busy : s.dstate ≠ .idle := by simp [ha]
  cases h with
  | rejected _ v => exact .inr ⟨v, rfl⟩
  | waitcb => exact .inl rfl
  | wIdx | wDat | wRd => cases hi
  | _ => exact absurd ‹s.dstate = .idle› busy

theorem sameTransfer_of_contextTurn {c : Context} (ha : s.dstate = .armed) (h : contextTurn exec c s = .next t) :
    SameTransfer s t := by
  obtain ⟨-, h⟩ | ⟨-, -, rfl⟩ | ⟨-, -, rfl⟩ := contextTurn_cases h
  · obtain ⟨-, rfl⟩ | ⟨_, len, -, rfl⟩ | ⟨i, len, u, hd, hu, rfl⟩ := issueCommand_cases h
    · exact .refl t
    · exact (SameTransfer.raise s .illegal).advance c len
    · have same : SameTransfer s u := by
        obtain rfl | ⟨v, rfl⟩ := (executes_of_exec hu).of_armed (isCommand_of_decodeCommand hd) ha
        · exact .refl u
        · exact .raise s v
      split
      · exact same.advance c len
      · exact same.setWait c .holding
  · exact .refl t
  · exact ((SameTransfer.refl s).setWait c .none).advance c 1

theorem transferStep_of_step (hi : EngineInv s) (ha : s.dstate = .armed) (h : step s = .next t) :
    TransferStep s t := by
  obtain ⟨turns, effect⟩ := turnEffect_of_step hi h
  generalize hturn : (takeTurn s).1 = turn at effect
  cases effect with
  | host h =>
    have same := sameTransfer_of_contextTurn (s := { s with turns := turns }) ha h
    exact .passes { same with } fun a => by cases a <;> simp [Agent.acts, hturn]
  | callback words h =>
    have same := sameTransfer_of_contextTurn (s := extendCallback words { s with turns := turns }) ha h
    exact .passes { same with } fun a => by cases a <;> simp [Agent.acts, hturn]
  | stores elem v => exact .passes { SameTransfer.refl s with } fun a => by cases a <;> simp [Agent.acts, hturn]
  | passes _ idle =>
    subst hturn
    exact .passes { SameTransfer.refl s with } idle
  | reads enabled => exact .reads turns hturn enabled rfl
  | sends v rest hf => exact .sends turns v rest hturn hf rfl
  | raises enabled => exact .raises turns hturn enabled rfl
  | handles hp => exact .ends turns hturn hp rfl

end

/-- Settles O60: the agents excluded are the ones that could move the transfer. -/
theorem stalledTransferStays : Obligations.StalledTransferStays := by
  intro s t turn turns hi ha ht hpush hshift hdone hhandler h
  have next : (takeTurn s).1 = turn := by simp [takeTurn, ht]
  have same : SameTransfer s t := by
    cases transferStep_of_step hi ha h with
    | passes same => exact same
    | reads _ acts => exact absurd (next.symm.trans acts) hpush
    | sends _ _ _ acts => exact absurd (next.symm.trans acts) hshift
    | raises _ acts => exact absurd (next.symm.trans acts) hdone
    | ends _ acts => exact absurd (next.symm.trans acts) hhandler
  exact ⟨same.dstate.trans ha, same.cs.trans (hi.selected_of_armed ha), same.tdRem, same.fifo, same.irqPending⟩

/-! The progress of a transfer (43 R215). -/

section
variable {s t : State}

/-- Right after DMAWR nothing has been read or sent (43 R206). -/
theorem TransferProgress.of_started {older : List Event} (ht : t.traceRev = .dmaStart t.tdSrc t.tdCount :: older)
    (hr : t.tdRem = t.tdCount) (hf : t.fifo = []) (hp : t.irqPending = false) : TransferProgress t := by
  have since : t.sinceStart = [] := by simp [State.sinceStart, ht, Event.isDmaStart]
  exact
    { started := by simp [State.lastStart, ht, Event.isDmaStart]
      only := by simp [since]
      addresses := by simp [since, hr]
      values := by simp [since, hf]
      raised := by simp [since, hp] }

theorem sinceStart_of_event {e : Event} (he : e.isDmaStart = false) (ht : t.traceRev = e :: s.traceRev) :
    t.sinceStart = s.sinceStart ++ [e] := by
  simp [State.sinceStart, ht, he]

theorem lastStart_of_event {e : Event} (he : e.isDmaStart = false) (ht : t.traceRev = e :: s.traceRev) :
    t.lastStart = s.lastStart := by
  simp [State.lastStart, ht, he]

theorem Event.not_dmaStart_of_duringTransfer {e : Event} (he : e.duringTransfer = true) : e.isDmaStart = false := by
  cases e with
  | dmaStart => cases he
  | _ => rfl

/-- One more event of the transfer. -/
theorem TransferProgress.of_event (h : TransferProgress s) {e : Event} (he : e.duringTransfer = true)
    (ht : t.traceRev = e :: s.traceRev) (hsrc : t.tdSrc = s.tdSrc) (hcount : t.tdCount = s.tdCount)
    (addresses : (s.sinceStart.filterMap Event.elementRead ++ e.elementRead.toList).map Prod.fst =
      (List.range (t.tdCount.toNat - t.tdRem.toNat)).map (fun i => t.tdSrc.toNat + 2 * i))
    (values : (s.sinceStart.filterMap Event.elementRead ++ e.elementRead.toList).map Prod.snd =
      s.sinceStart.filterMap Event.dataSent ++ e.dataSent.toList ++ t.fifo)
    (raised : s.sinceStart.filterMap Event.lineRaised ++ e.lineRaised.toList =
      if t.irqPending then [t.cbLine] else []) : TransferProgress t := by
  have since := sinceStart_of_event (Event.not_dmaStart_of_duringTransfer he) ht
  have one : ∀ {α : Type} (f : Event → Option α), t.sinceStart.filterMap f = s.sinceStart.filterMap f ++ (f e).toList := by
    intro α f
    cases hf : f e <;> simp [since, hf]
  refine ⟨?_, ?_, ?_, ?_, ?_⟩
  · rw [lastStart_of_event (Event.not_dmaStart_of_duringTransfer he) ht, hsrc, hcount, h.started]
  · rw [since]
    exact List.forall_mem_append.2 ⟨h.only, by simpa using he⟩
  · rw [one, addresses]
  · rw [one, one, values]
  · rw [one, raised]

theorem TransferProgress.of_trace (h : TransferProgress s) (same : SameTransfer s t) (ht : t.traceRev = s.traceRev) :
    TransferProgress t := by
  have since : t.sinceStart = s.sinceStart := by rw [State.sinceStart, ht, State.sinceStart]
  have start : t.lastStart = s.lastStart := by rw [State.lastStart, ht, State.lastStart]
  refine ⟨?_, since ▸ h.only, ?_, ?_, ?_⟩
  · rw [start, same.tdSrc, same.tdCount, h.started]
  · rw [since, same.tdSrc, same.tdCount, same.tdRem, h.addresses]
  · rw [since, same.fifo, h.values]
  · rw [since, same.irqPending, same.cbLine, h.raised]

/-- Where the transfer stays, its progress does, with a rejected command more, it may be. -/
theorem TransferProgress.of_same (h : TransferProgress s) (same : SameTransfer s t) : TransferProgress t := by
  obtain ht | ⟨v, ht⟩ := same.trace
  · exact h.of_trace same ht
  · refine h.of_event rfl ht same.tdSrc same.tdCount ?_ ?_ ?_
    · simp [Event.elementRead, h.addresses, same.tdSrc, same.tdCount, same.tdRem]
    · simp [Event.elementRead, Event.dataSent, h.values, same.fifo]
    · simp [Event.lineRaised, h.raised, same.irqPending, same.cbLine]

/-- Every step of an armed transfer goes on with it, or ends it. -/
theorem TransferStep.progress (h : TransferStep s t) (hi : EngineInv s) (hs : TransferProgress s)
    (ha : t.dstate = .armed) : TransferProgress t := by
  cases h with
  | passes same => exact hs.of_same same
  | reads turns _ enabled e =>
    obtain ⟨-, hr, -⟩ := dmaPushEnabled_iff.1 enabled
    have count : s.tdCount.toNat - (s.tdRem - 1#32).toNat = s.tdCount.toNat - s.tdRem.toNat + 1 := by
      have := hi.rem_le
      bv_omega
    subst e
    refine hs.of_event (e := .memRead _ _) rfl rfl rfl rfl ?_ ?_ ?_
    · simp only [count, List.range_succ]
      simp [Event.elementRead, hs.addresses, dmaAddress]
    · simp [Event.elementRead, Event.dataSent, hs.values]
    · simp [Event.lineRaised, hs.raised]
  | sends turns v rest _ hf e =>
    subst e
    refine hs.of_event (e := .tx .high v) rfl rfl rfl rfl ?_ ?_ ?_
    · simp [Event.elementRead, hs.addresses]
    · simp [Event.elementRead, Event.dataSent, hs.values, hf]
    · simp [Event.lineRaised, hs.raised]
  | raises turns _ enabled e =>
    obtain ⟨-, -, -, hp⟩ := dmaDoneEnabled_iff.1 enabled
    subst e
    refine hs.of_event (e := .irqRaise s.cbLine) rfl rfl rfl rfl ?_ ?_ ?_
    · simp [Event.elementRead, hs.addresses]
    · simp [Event.elementRead, Event.dataSent, hs.values]
    · simp [Event.lineRaised, hs.raised, hp]
  | ends _ _ _ e =>
    subst e
    cases ha

/-! How a transfer begins (43 R206). -/

/-- An idle engine is armed by a command only when it is DMAWR, whose transfer begins. -/
theorem Executes.progress_of_idle {i : Instr} (h : Executes s i t) (hi : EngineInv s) (hd : s.dstate = .idle)
    (ha : t.dstate = .armed) : TransferProgress t := by
  by_cases hw : ∃ src n, i = .dmawr src n
  · obtain ⟨src, n, rfl⟩ := hw
    cases h with
    | rejected => exact absurd (hd.symm.trans ha) nofun
    | dmawr =>
      exact .of_started (older := (openBurst s).traceRev) rfl rfl (by simp) (by simp [(hi.idle_drained hd).2.1])
  · have kept := (h.transfer_kept fun src n e => hw ⟨src, n, e⟩).1
    exact absurd (hd.symm.trans (kept.symm.trans ha)) nofun

theorem progress_of_contextTurn {c : Context} (hi : EngineInv s) (hd : s.dstate = .idle)
    (h : contextTurn exec c s = .next t) (ha : t.dstate = .armed) : TransferProgress t := by
  have idle : ∀ {u : State}, SameTransfer s u → u.dstate ≠ .armed := fun same e =>
    absurd (hd.symm.trans (same.dstate.symm.trans e)) nofun
  obtain ⟨-, h⟩ | ⟨-, hn, -⟩ | ⟨-, -, rfl⟩ := contextTurn_cases h
  · obtain ⟨-, rfl⟩ | ⟨_, len, -, rfl⟩ | ⟨i, len, u, -, hu, rfl⟩ := issueCommand_cases h
    · exact absurd ha (idle (.refl t))
    · exact absurd ha (idle ((SameTransfer.raise s .illegal).advance c len))
    · have same : SameTransfer u (if commandReturns i s then Machine.advance c len u else Machine.setWait c .holding u) := by
        split
        · exact (SameTransfer.refl u).advance c len
        · exact (SameTransfer.refl u).setWait c .holding
      exact ((executes_of_exec hu).progress_of_idle hi hd (same.dstate.symm.trans ha)).of_same same
  · exact absurd hd hn
  · exact absurd ha (idle (((SameTransfer.refl s).setWait c .none).advance c 1))

/-- In `Idle` no agent acts but the HOST (10_state R42.5; 43 R211 to R214). -/
theorem progress_of_idle (hi : EngineInv s) (hd : s.dstate = .idle) (h : step s = .next t) (ha : t.dstate = .armed) :
    TransferProgress t := by
  obtain ⟨turns, effect⟩ := turnEffect_of_step hi h
  obtain ⟨empty, unpending, -⟩ := hi.idle_drained hd
  have scheduled : EngineInv { s with turns := turns } := { hi with }
  have not_armed : s.dstate ≠ .armed := by simp [hd]
  generalize (takeTurn s).1 = turn at effect
  cases effect with
  | host h => exact progress_of_contextTurn scheduled hd h ha
  | callback words h => exact progress_of_contextTurn (scheduled.extendCallback words) hd h ha
  | stores => exact absurd ha not_armed
  | passes => exact absurd ha not_armed
  | reads enabled => exact absurd (dmaPushEnabled_iff.1 enabled).1 not_armed
  | sends v rest hf => exact absurd (empty.symm.trans hf) nofun
  | raises enabled => exact absurd (dmaDoneEnabled_iff.1 enabled).1 not_armed
  | handles => cases ha

end

/-- Settles O57: a step of an armed transfer goes on with it or ends it; a transfer begins with nothing read or sent. -/
theorem stepKeepsTransfer : Obligations.StepKeepsTransfer := by
  intro s t hi hs h ha
  obtain hd | hd := hi.quiescent
  · exact progress_of_idle hi hd h ha
  · exact (transferStep_of_step hi hd h).progress hi (hs hd) ha

/-- Settles O58: a pending condition means that no element remains and no word waits, so the progress is the whole
buffer's; the handler appends its three events. -/
theorem handlerEndsWholeTransfer : Obligations.HandlerEndsWholeTransfer := by
  intro s turns hi hs hp ht
  obtain ⟨ha, hr, hf⟩ := hi.pending_drained hp
  have progress := hs ha
  refine ⟨_, (irqHandlerRule s turns ht).1 hp, rfl, rfl, ?_, ?_, ?_, progress.started, ?_⟩
  · simpa [hr] using progress.addresses
  · simpa [hf] using progress.values.symm
  · simpa [hp] using progress.raised
  · simp [State.trace]

/-- After the handler the engine can take an ordinary command. -/
theorem ready_of_handled {s : State} (hi : EngineInv s) (hp : s.irqPending = true) : Ready (irqHandler s) := by
  obtain ⟨ha, -, hf⟩ := hi.pending_drained hp
  have closed : s.frameOpen = false := by
    rw [← Bool.not_eq_true]
    exact fun ho => absurd (ha.symm.trans (hi.exclusive ho)) nofun
  rw [irqHandler_of_pending hp]
  exact ⟨rfl, closed, hf⟩

/-! The pixel commands (43 R200 to R203). -/

section
variable {s : State}

theorem admission_inFrame_busy (hd : s.dstate ≠ .idle) : admission .inFrame s = some .busy := by
  cases h : s.dstate <;> simp_all [admission, require]

theorem admission_inFrame_frame (hd : s.dstate = .idle) (hf : s.frameOpen = false) :
    admission .inFrame s = some .frame := by
  simp [admission, require, hd, hf]

theorem exec_pxstart (s : State) :
    exec .pxstart s = checked (admission .ordinary s) (fun t => { openBurst t with frameOpen := true }) s := rfl

theorem exec_pxend (s : State) :
    exec .pxend s = checked (admission .inFrame s) (fun t => { closeBurst t with frameOpen := false }) s := rfl

theorem exec_pxstart_of_ready (hr : Ready s) : exec .pxstart s = .next { openBurst s with frameOpen := true } :=
  exec_of_checked (exec_pxstart s) hr.admitted

theorem exec_pxend_of_open (hd : s.dstate = .idle) (hf : s.frameOpen = true) :
    exec .pxend s = .next { closeBurst s with frameOpen := false } :=
  exec_of_checked (exec_pxend s) (admission_inFrame_none.2 ⟨hd, hf⟩)

theorem validBuffer_iff {src n : DWord} :
    validBuffer src n.toNat = true ↔
      src.toNat ≠ 0 ∧ 0 < n.toNat ∧ src.toNat % 2 = 0 ∧ src.toNat + 2 * n.toNat ≤ 2 ^ 32 := by
  have null : src ≠ 0#32 ↔ src.toNat ≠ 0 := by simp [← BitVec.toNat_inj]
  simp [validBuffer, null, and_assoc]

/-- The frames of PXSTART and PXEND: the index frame and an empty data frame (43 R202). -/
theorem closed_read_emptyBurst {f : FrameScan} (hc : f.cs = .high) (c : Config) :
    (f.read (burstEvents c [])).closed = ⟨.high, []⟩ :: ⟨.low, [.sent (indexWord c.idx.gramRw)]⟩ :: f.closed := by
  simp [burstEvents, openBurstEvents, indexFrameEvents, FrameScan.event, hc]

end

/-- Settles O29: an ordinary command whose effect is the opening. -/
theorem pxstartRule : Obligations.PxstartRule := by
  refine ⟨rfl, rejectedUnlessIdle_of_admission fun s _ => rejects_of_checked (exec_pxstart s), fun s hr => ?_⟩
  rw [exec_pxstart_of_ready hr, openBurst_drained hr.drained]

/-- Settles O30: one word on the wire from a drained FIFO. -/
theorem pxwordRule : Obligations.PxwordRule := by
  refine fun w => ⟨rfl, fun s => ⟨fun hd => ?_, fun hd hf => ?_, fun hd hf hq hc hr => ?_⟩⟩
  · exact exec_pxword_of_rejected (admission_inFrame_busy hd) w
  · exact exec_pxword_of_rejected (admission_inFrame_frame hd hf) w
  · rw [exec_pxword_of_admitted (admission_inFrame_none.2 ⟨hd, hf⟩), whileSelected_low hc, tx_of_drained hq]
    simp only [shiftOut, emit, hr]

/-- Settles O31: PXEND drives CS high; after PXSTART the frames of the trace are read off its events and that one. -/
theorem pxendRule : Obligations.PxendRule := by
  refine ⟨rfl, fun s => ⟨fun hd => ?_, fun hd hf => ?_, exec_pxend_of_open⟩, fun s hr hc => ?_⟩
  · exact rejects_of_checked (exec_pxend s) (admission_inFrame_busy hd)
  · exact rejects_of_checked (exec_pxend s) (admission_inFrame_frame hd hf)
  · refine ⟨_, _, exec_pxstart_of_ready hr, exec_pxend_of_open (by simp [hr.idle]) rfl, ?_, ?_⟩
    · have events : .pin .cs .high :: (openBurst s).traceRev = (burstEvents s.cfg []).reverse ++ s.traceRev := by
        simp [openBurst_drained hr.drained, burstEvents]
      rw [frames_trace, frames_trace]
      simp [events, scanOf_append, closed_read_emptyBurst hc]
    · simp [openBurst_drained hr.drained]

/-- Settles O32: the buffer's check, then the events of the burst. -/
theorem wrpixRule : Obligations.WrpixRule := by
  refine fun src n => ⟨rfl, rejectedUnlessIdle_of_guard fun _ => rfl, fun s => ⟨fun hd hf hn => ?_,
    fun hr h0 hl h2 hm => ?_⟩⟩
  · exact rejects_of_guard rfl hd hf (require_eq_some (mt validBuffer_iff.1 hn) _)
  · have valid : validBuffer src n.toNat = true := validBuffer_iff.2 ⟨h0, hl, h2, hm⟩
    exact (exec_of_guard rfl hr (require_none.2 valid)).trans (congrArg _ (sendBuffer_withEvents hr.drained src _))

/-! DMAWR and SETCB (43 R206, R208). -/

/-- DMAWR's own checks, after the admission check (43 R206). -/
def transferChecks (src n : DWord) (s : State) : Option Violation :=
  ((require s.tdCfg .noinit).or (require (validBuffer src n.toNat) .buffer)).or (require s.cbValid .nocb)

section
variable {s : State}

theorem exec_dmawr (src n : DWord) (s : State) :
    exec (.dmawr src n) s =
      checked ((admission .ordinary s).or (transferChecks src n s)) (startTransfer src n) s := by
  rw [transferChecks, ← Option.or_assoc, ← Option.or_assoc]
  rfl

/-- DMAWR from a drained FIFO, as one update of the state (43 R206). -/
theorem startTransfer_drained (h : s.fifo = []) (src n : DWord) :
    startTransfer src n s =
      { s with
        cs := .low
        rs := .high
        dstate := .armed
        tdSrc := src
        tdCount := n
        tdRem := n
        panel := { s.panel with ir := some s.cfg.idx.gramRw }
        traceRev := .dmaStart src n :: ((openBurstEvents s.cfg).reverse ++ s.traceRev) } := by
  simp only [startTransfer, openBurst_drained h, emit]

theorem exec_dmawr_of_ready {src n : DWord} (hr : Ready s) (ht : s.tdCfg = true)
    (hb : validBuffer src n.toNat = true) (hc : s.cbValid = true) :
    exec (.dmawr src n) s = .next (startTransfer src n s) :=
  exec_of_guard (exec_dmawr src n s) hr (by simp [transferChecks, require, ht, hb, hc])

theorem exec_setcb (line : Byte) (fn : DWord) (s : State) :
    exec (.setcb line fn) s =
      checked ((admission .ordinary s).or (require (validLine s.cfg line) .irqline))
        (fun t => { t with cbLine := line, cbFn := fn, cbValid := true }) s := rfl

theorem validLine_iff {c : Config} {line : Byte} : validLine c line = true ↔ line ∈ c.irqLines :=
  List.contains_iff_mem

end

/-- Settles O33: the checks in their order, then the transfer is started. -/
theorem dmawrRule : Obligations.DmawrRule := by
  refine fun src n => ⟨rfl, rejectedUnlessIdle_of_guard (exec_dmawr src n), fun s => ⟨fun hd hf ht => ?_,
    fun hd hf ht hb => ?_, fun hd hf ht hb hc => ?_, fun hr ht hb hc => ?_⟩⟩
  · exact rejects_of_guard (exec_dmawr ..) hd hf (by simp [transferChecks, require, ht])
  · exact rejects_of_guard (exec_dmawr ..) hd hf (by simp [transferChecks, require, ht, hb])
  · exact rejects_of_guard (exec_dmawr ..) hd hf (by simp [transferChecks, require, ht, hb, hc])
  · rw [exec_dmawr_of_ready hr ht hb hc, startTransfer_drained hr.drained]

/-- Settles O34: the line's check, then the binding is overwritten. -/
theorem setcbRule : Obligations.SetcbRule := by
  refine fun line fn => ⟨rfl, rejectedUnlessIdle_of_guard (exec_setcb line fn), fun s => ⟨fun hd hf hl => ?_,
    fun hd hf hl => ?_⟩⟩
  · exact rejects_of_guard (exec_setcb ..) hd hf (require_eq_some (mt validLine_iff.1 hl) _)
  · exact exec_of_checked (exec_setcb line fn s)
      (by rw [admission_ordinary_none.2 ⟨hd, hf⟩, require_none.2 (validLine_iff.2 hl), Option.or_none])

/-- Settles O41: the handler leaves a ready engine with its descriptor configured and its callback bound. -/
theorem callbackMayRearm : Obligations.CallbackMayRearm := by
  intro s t turns src n hi hp ht h hb
  have handled : EngineInv { s with turns := turns } := { hi with }
  obtain rfl : irqHandler { s with turns := turns } = t := by
    injection (step_of_turn ht).symm.trans h
  obtain ⟨ha, -⟩ := hi.pending_drained hp
  obtain ⟨bound, configured⟩ := hi.armed_ready ha
  have ready := ready_of_handled handled hp
  have fields := irqHandler_of_pending (s := { s with turns := turns }) hp
  exact ⟨_, exec_dmawr_of_ready ready (by rw [fields]; exact configured) hb (by rw [fields]; exact bound), rfl, rfl, rfl,
    by simp⟩

/-! WAITCB (43 R209; log 19). -/

theorem decodeCommand_waitcb (rest : List Word) : decodeCommand (0x4200#16 :: rest) = .command .waitcb 1 := rfl

section
variable {s : State} {c : Context}

theorem exec_waitcb_of_frame (hf : s.frameOpen = true) : Rejects .waitcb .frame s := by
  simp [Rejects, exec, execWaitcb, admission, require, hf]

theorem exec_waitcb_of_no_frame (hf : s.frameOpen = false) : exec .waitcb s = .next s := by
  simp [exec, execWaitcb, admission_waiting_none.2 hf]

/-- A WAITCB that is issued with no frame open begins to hold during a transfer, and else returns. -/
theorem contextTurn_of_waitcb {rest : List Word} (hw : s.waitOf c = .none) (hc : s.wordsOf c = 0x4200#16 :: rest)
    (hf : s.frameOpen = false) :
    contextTurn exec c s = .next (if s.dstate = .idle then advance c 1 s else setWait c .holding s) := by
  have decoded : decodeCommand (s.wordsOf c) = .command .waitcb 1 := hc ▸ decodeCommand_waitcb rest
  rw [contextTurn_of_no_wait hw, issueCommand_of_command decoded, exec_waitcb_of_no_frame hf]
  by_cases hd : s.dstate = .idle <;> simp [hd, hf]

theorem contextTurn_of_holding (hw : s.waitOf c = .holding) (hd : s.dstate ≠ .idle) :
    contextTurn exec c s = .next s := by
  simp [contextTurn, hw, hd]

theorem contextTurn_of_returning (hw : s.waitOf c = .lifted ∨ s.waitOf c = .holding ∧ s.dstate = .idle) :
    contextTurn exec c s = .next (endWait c s) := by
  obtain hw | ⟨hw, hd⟩ := hw
  · simp [contextTurn, hw]
  · simp [contextTurn, hw, hd]

end

/-- Settles O35: in either context a turn issues WAITCB, passes while it holds, or returns from it. -/
theorem waitcbRule : Obligations.WaitcbRule := by
  refine ⟨rfl, fun s => ⟨exec_waitcb_of_frame, exec_waitcb_of_no_frame, fun turns ht => ?_, fun turns words ht => ?_⟩⟩
  · have acts : step s = contextTurn exec .thread { s with turns := turns } := step_of_turn ht
    refine ⟨fun rest hw hp hf => ?_, fun hw hd => ?_, fun hw => ?_⟩
    · have issued := acts.trans (contextTurn_of_waitcb (c := .thread) hw hp hf)
      exact ⟨fun hd => issued.trans (congrArg _ (if_neg hd)), fun hd => issued.trans (congrArg _ (if_pos hd))⟩
    · exact acts.trans (contextTurn_of_holding hw hd)
    · exact acts.trans (contextTurn_of_returning hw)
  · have acts : step s = contextTurn exec .interrupt { s with turns := turns, cbProg := s.cbProg ++ words } :=
      step_of_turn ht
    refine ⟨fun rest hw hp hf => ?_, fun hw hd => ?_, fun hw => ?_⟩
    · rw [hp] at acts
      have issued := acts.trans (contextTurn_of_waitcb (c := .interrupt) hw rfl hf)
      exact ⟨fun hd => issued.trans (congrArg _ (if_neg hd)), fun hd => issued.trans (congrArg _ (if_pos hd))⟩
    · exact acts.trans (contextTurn_of_holding hw hd)
    · exact acts.trans (contextTurn_of_returning hw)

/-! The trace only grows (00_scope R11). -/

section
variable {s t : State}

theorem initIdCheck_trace_grows (h : s.fifo = []) : s.traceRev <:+ (initIdCheck s).traceRev := by
  obtain ⟨-, e⟩ | ⟨-, r, e⟩ := initIdCheck_cases s
  · simp [e]
  · simp [e, readRegister_withEvents h]

theorem Executes.trace_grows {i : Instr} (h : Executes s i t) (hi : EngineInv s) : s.traceRev <:+ t.traceRev := by
  have drained : s.dstate = .idle → s.frameOpen = false → s.fifo = [] := fun hd _ => (hi.idle_drained hd).1
  cases h with
  | rejected => exact List.suffix_cons _ _
  | wridx a hd hf => simp [indexFrame_withEvents (drained hd hf)]
  | wrdat v hd hf => simp [dataFrame_withEvents (drained hd hf)]
  | setreg a v hd hf => simp [writeRegister_drained (drained hd hf)]
  | getreg a hd hf => simp [readRegister_withEvents (drained hd hf)]
  | setwin _ _ _ _ hd hf => simp [setWindow_withEvents (drained hd hf)]
  | setaddr _ _ hd hf => simp [writeRegisters_traceRev (drained hd hf)]
  | pxstart hd hf => simp [openBurst_withEvents (drained hd hf)]
  | pxword w hd _ _ => simp [tx_of_drained (hi.idle_drained hd).1]
  | pxend => exact List.suffix_cons _ _
  | wrpix _ _ hd hf => simp [sendBuffer_withEvents (drained hd hf)]
  | dmawr _ _ hd hf => exact startTransfer_drained (drained hd hf) _ _ ▸ List.suffix_append (_ :: _) _
  | fill _ _ _ hd hf => simp [fillRectangle_withEvents (drained hd hf)]
  | fillrect _ _ _ _ _ hd hf => simp [fillRectangle_withEvents (drained hd hf)]
  | blit _ _ _ _ _ hd hf =>
    rw [← blitRectangle, blitRectangle_withEvents (drained hd hf)]
    exact List.suffix_append _ _
  | init hd hf =>
    have stages : s.traceRev <:+ (initSequence s).traceRev := by simp [initSequence_withEvents (drained hd hf)]
    exact stages.trans (initIdCheck_trace_grows (initSequence_fifo s))
  | setcb => exact List.suffix_rfl
  | waitcb => exact List.suffix_rfl
  | wIdx => exact List.suffix_cons _ _
  | wDat => exact List.suffix_cons _ _
  | wRd => exact List.suffix_cons _ _

theorem trace_grows_of_contextTurn {c : Context} (hi : EngineInv s) (h : contextTurn exec c s = .next t) :
    s.traceRev <:+ t.traceRev := by
  obtain ⟨-, h⟩ | ⟨-, -, rfl⟩ | ⟨-, -, rfl⟩ := contextTurn_cases h
  · obtain ⟨-, rfl⟩ | ⟨_, len, -, rfl⟩ | ⟨i, len, u, -, hu, rfl⟩ := issueCommand_cases h
    · exact List.suffix_rfl
    · simp
    · have grows := (executes_of_exec hu).trace_grows hi
      split
      · simpa using grows
      · simpa using grows
  · exact List.suffix_rfl
  · simp [endWait]

theorem trace_grows_of_step (hi : EngineInv s) (h : step s = .next t) : s.traceRev <:+ t.traceRev := by
  obtain ⟨turns, effect⟩ := turnEffect_of_step hi h
  have scheduled : EngineInv { s with turns := turns } := { hi with }
  generalize (takeTurn s).1 = turn at effect
  cases effect with
  | host h => exact trace_grows_of_contextTurn (s := { s with turns := turns }) scheduled h
  | callback words h =>
    have extended := scheduled.extendCallback words
    exact trace_grows_of_contextTurn (s := extendCallback words { s with turns := turns }) extended h
  | stores => exact List.suffix_rfl
  | passes => exact List.suffix_rfl
  | reads => exact List.suffix_cons _ _
  | sends => exact List.suffix_cons _ _
  | raises => exact List.suffix_cons _ _
  | handles => exact List.suffix_append _ _

theorem trace_grows_of_reaches {k : Nat} (hi : EngineInv s) (h : Reaches s k t) :
    ∃ events, t.trace = s.trace ++ events := by
  induction k generalizing s with
  | zero => exact ⟨[], by rw [reaches_zero.1 h, List.append_nil]⟩
  | succ k ih =>
    obtain ⟨u, hu, h⟩ := reaches_succ.1 h
    obtain ⟨events, he⟩ := ih (stepKeepsInv s u hi hu) h
    obtain ⟨new, hn⟩ := trace_grows_of_step hi hu
    exact ⟨new.reverse ++ events, by rw [he, State.trace, ← hn, List.reverse_append, List.append_assoc, State.trace]⟩

end

/-! The tail of a run. -/

/-- The HOST's thread has turns again and again (70 R291). -/
def HostRecurs (s : State) : Prop :=
  ∀ n, ∃ k, n ≤ k ∧ ∃ t, Reaches s k t ∧ (takeTurn t).1 = .host

section
variable {s t u : State}

theorem reaches_one (h : step s = .next t) : Reaches s 1 t :=
  reaches_succ.2 ⟨t, h, reaches_zero.2 rfl⟩

/-- A state some steps on in a run, seen from a state the run has passed. -/
theorem reaches_of_reaches_add {k m : Nat} (hu : Reaches s k u) (ht : Reaches s (k + m) t) : Reaches u m t := by
  obtain ⟨w, hw, ht⟩ := reaches_add.1 ht
  rwa [reaches_unique hu hw]

theorem EngineInv.of_reaches {k : Nat} (h : EngineInv s) (hu : Reaches s k u) : EngineInv u := by
  obtain ⟨w, hw, inv⟩ := h.reaches k
  exact reaches_unique hw hu ▸ inv

theorem cfg_of_reaches {k : Nat} (hu : Reaches s k u) : u.cfg = s.cfg := by
  induction k generalizing s with
  | zero => rw [reaches_zero.1 hu]
  | succ k ih =>
    obtain ⟨t, ht, hu⟩ := reaches_succ.1 hu
    exact (ih hu).trans (bindingAndDescriptorStable s t ht).1

theorem WeaklyFair.of_reaches {k : Nat} (h : WeaklyFair s) (hu : Reaches s k u) : WeaklyFair u := by
  intro a n enabled
  obtain ⟨j, hj, t, ht, acts⟩ := h a (k + n) fun j hj => by
    obtain ⟨t, ht, he⟩ := enabled (j - k) (by omega)
    exact ⟨t, by rw [show j = k + (j - k) by omega]; exact reaches_add.2 ⟨u, hu, ht⟩, he⟩
  refine ⟨j - k, by omega, t, reaches_of_reaches_add hu ?_, acts⟩
  rwa [show k + (j - k) = j by omega]

theorem HostRecurs.of_reaches {k : Nat} (h : HostRecurs s) (hu : Reaches s k u) : HostRecurs u := by
  intro n
  obtain ⟨j, hj, t, ht, host⟩ := h (k + n)
  refine ⟨j - k, by omega, t, reaches_of_reaches_add hu ?_, host⟩
  rwa [show k + (j - k) = j by omega]

end

/-! The calling thread at a WAITCB (43 R209). -/

/-- WAITCB is the thread's next command. -/
def AtWaitcb (s : State) : Prop :=
  ∃ rest, s.prog.drop s.cpc = 0x4200#16 :: rest

/-- From `s` to `t` the thread has not moved. -/
def ThreadStays (s t : State) : Prop :=
  t.prog = s.prog ∧ t.cpc = s.cpc

/-- From `s` to `t` the thread's WAITCB has returned. -/
def WaitcbReturned (s t : State) : Prop :=
  t.cpc = s.cpc + 1 ∧ t.wait = .none

section
variable {s t u : State}

theorem ThreadStays.trans (h : ThreadStays s t) (h' : ThreadStays t u) : ThreadStays s u :=
  ⟨h'.1.trans h.1, h'.2.trans h.2⟩

theorem ThreadStays.atWaitcb (h : ThreadStays s t) (hs : AtWaitcb s) : AtWaitcb t := by
  obtain ⟨prog, cpc⟩ := h
  rwa [AtWaitcb, prog, cpc]

theorem ThreadStays.returned (h : ThreadStays s t) (hr : WaitcbReturned t u) : WaitcbReturned s u :=
  ⟨hr.1.trans (congrArg (· + 1) h.2), hr.2⟩

theorem KeepsInputs.thread (h : KeepsInputs s t) : ThreadStays s t ∧ t.wait = s.wait := by
  obtain ⟨-, prog, cpc, -, wait, -⟩ := h
  exact ⟨⟨prog, cpc⟩, wait⟩

/-- The callback's turn leaves the thread alone (60 R251). -/
theorem thread_of_callbackTurn (h : contextTurn exec .interrupt s = .next t) : ThreadStays s t ∧ t.wait = s.wait := by
  obtain ⟨-, h⟩ | ⟨-, -, rfl⟩ | ⟨-, -, rfl⟩ := contextTurn_cases h
  · obtain ⟨-, rfl⟩ | ⟨_, len, -, rfl⟩ | ⟨i, len, u, -, hu, rfl⟩ := issueCommand_cases h
    · exact ⟨⟨rfl, rfl⟩, rfl⟩
    · exact ⟨⟨rfl, rfl⟩, rfl⟩
    · have kept := (executes_of_exec hu).keepsInputs.thread
      split
      · exact kept
      · exact kept
  · exact ⟨⟨rfl, rfl⟩, rfl⟩
  · exact ⟨⟨rfl, rfl⟩, rfl⟩

/-- Only the handler changes the WAITCB of a thread that has no turn, and it lifts it (43 R209). -/
theorem thread_of_other_turn (hi : EngineInv s) (h : step s = .next t) (hn : (takeTurn s).1 ≠ .host) :
    ThreadStays s t ∧ (t.wait = s.wait ∨ t.dstate = .idle ∧ t.wait = s.wait.lift) := by
  obtain ⟨turns, effect⟩ := turnEffect_of_step hi h
  have same : ThreadStays s s := ⟨rfl, rfl⟩
  generalize (takeTurn s).1 = turn at effect hn
  cases effect with
  | host => exact absurd rfl hn
  | callback words h =>
    exact (thread_of_callbackTurn (s := extendCallback words { s with turns := turns }) h).imp_right .inl
  | stores => exact ⟨same, .inl rfl⟩
  | passes => exact ⟨same, .inl rfl⟩
  | reads => exact ⟨same, .inl rfl⟩
  | sends => exact ⟨same, .inl rfl⟩
  | raises => exact ⟨same, .inl rfl⟩
  | handles => exact ⟨same, .inr ⟨rfl, rfl⟩⟩

/-- A WAITCB that is issued with a frame open is rejected, and passed (60 R245). -/
theorem contextTurn_of_rejected_waitcb {c : Context} {rest : List Word} (hw : s.waitOf c = .none)
    (hc : s.wordsOf c = 0x4200#16 :: rest) (hf : s.frameOpen = true) :
    contextTurn exec c s = .next (advance c 1 (raise .frame s)) := by
  have decoded : decodeCommand (s.wordsOf c) = .command .waitcb 1 := hc ▸ decodeCommand_waitcb rest
  rw [contextTurn_of_no_wait hw, issueCommand_of_command decoded, exec_waitcb_of_frame hf]
  simp [hf]

/-- The thread's turn at a WAITCB: it returns, or, in a transfer, it holds (43 R209, 60 R245). -/
theorem thread_of_hostTurn (hi : EngineInv s) (hw : AtWaitcb s) (h : contextTurn exec .thread s = .next t) :
    WaitcbReturned s t ∧ (s.wait = .lifted ∨ s.dstate = .idle) ∨
      s.wait ≠ .lifted ∧ ThreadStays s t ∧ t.wait = .holding := by
  obtain ⟨words, hwords⟩ := hw
  cases hwait : s.wait with
  | lifted =>
    injection (contextTurn_of_returning (c := .thread) (.inl hwait)).symm.trans h with h
    exact .inl (h ▸ ⟨⟨rfl, rfl⟩, .inl rfl⟩)
  | holding =>
    have hd : s.dstate ≠ .idle := by simp [hi.thread_holds hwait]
    injection (contextTurn_of_holding (c := .thread) hwait hd).symm.trans h with h
    exact .inr (h ▸ ⟨nofun, ⟨rfl, rfl⟩, hwait⟩)
  | none =>
    cases hf : s.frameOpen with
    | true =>
      injection (contextTurn_of_rejected_waitcb (c := .thread) hwait hwords hf).symm.trans h with h
      exact .inl (h ▸ ⟨⟨rfl, hwait⟩, .inr (hi.exclusive hf)⟩)
    | false =>
      injection (contextTurn_of_waitcb (c := .thread) hwait hwords hf).symm.trans h with h
      subst h
      split
      · rename_i hd
        exact .inl ⟨⟨rfl, hwait⟩, .inr hd⟩
      · exact .inr ⟨nofun, ⟨rfl, rfl⟩, rfl⟩

theorem thread_of_host_turn (hi : EngineInv s) (hw : AtWaitcb s) (h : step s = .next t)
    (hturn : (takeTurn s).1 = .host) :
    WaitcbReturned s t ∧ (s.wait = .lifted ∨ s.dstate = .idle) ∨
      s.wait ≠ .lifted ∧ ThreadStays s t ∧ t.wait = .holding := by
  obtain ⟨rest, he⟩ := takeTurn_eq s
  rw [step, he, hturn] at h
  exact thread_of_hostTurn (s := { s with turns := rest }) { hi with } hw h

/-- A thread at a WAITCB that does not hold has it return at its next turn, or begin to hold (43 R209). -/
theorem returns_or_holds (hi : EngineInv s) (hw : AtWaitcb s) (hn : s.wait ≠ .holding) {k : Nat}
    (hu : Reaches s k u) (hturn : (takeTurn u).1 = .host) :
    ∃ j t, Reaches s j t ∧ (WaitcbReturned s t ∨ s.wait ≠ .lifted ∧ ThreadStays s t ∧ t.wait = .holding) := by
  induction k generalizing s with
  | zero =>
    obtain rfl := reaches_zero.1 hu
    obtain ⟨t, h⟩ := hi.step_next
    exact ⟨1, t, reaches_one h, (thread_of_host_turn hi hw h hturn).imp_left And.left⟩
  | succ k ih =>
    obtain ⟨v, h, hu⟩ := reaches_succ.1 hu
    by_cases host : (takeTurn s).1 = .host
    · exact ⟨1, v, reaches_one h, (thread_of_host_turn hi hw h host).imp_left And.left⟩
    · obtain ⟨stays, wait⟩ := thread_of_other_turn hi h host
      have wait : v.wait = s.wait := wait.elim id fun ⟨_, lifted⟩ => lifted.trans ((Wait.lift_eq _).trans (if_neg hn))
      obtain ⟨j, t, ht, answer⟩ := ih (stepKeepsInv s v hi h) (stays.atWaitcb hw) (wait ▸ hn) hu
      refine ⟨j + 1, t, reaches_succ.2 ⟨v, h, ht⟩, ?_⟩
      exact answer.imp stays.returned fun ⟨unlifted, moved, holds⟩ => ⟨wait ▸ unlifted, stays.trans moved, holds⟩

end

/-! A transfer in flight, up to its end (43 R211 to R215). -/

/-- The transfer armed in `s` is still in flight in `t`: only events of a transfer lie between, the binding stays, and a
thread at a WAITCB that is not lifted has not moved. -/
structure InFlight (s t : State) : Prop where
  inv : EngineInv t
  armed : t.dstate = .armed
  cbFn : t.cbFn = s.cbFn
  cbLine : t.cbLine = s.cbLine
  trace : ∃ events, t.trace = s.trace ++ events ∧ ∀ e ∈ events, e.duringTransfer = true
  thread : AtWaitcb s → s.wait ≠ .lifted →
    ThreadStays s t ∧ t.wait ≠ .lifted ∧ (s.wait = .holding → t.wait = .holding)

/-- The handler has ended in `t` the transfer armed in `s`, after nothing but its events (43 R214, R215). -/
structure TransferEnded (s t : State) : Prop where
  inv : EngineInv t
  idle : t.dstate = .idle
  deselected : t.cs = .high
  trace : ∃ events, t.trace = s.trace ++ events ++ [.pin .cs .high, .irqClear s.cbLine, .callback s.cbFn] ∧
    ∀ e ∈ events, e.duringTransfer = true
  thread : AtWaitcb s → s.wait ≠ .lifted → ThreadStays s t ∧ (s.wait = .holding → t.wait = .lifted)

/-- What is still to be done in a transfer: each element is to be read and sent, each word sent, the condition raised. -/
def transferWork (s : State) : Nat :=
  2 * s.tdRem.toNat + s.fifo.length + if s.irqPending then 0 else 1

section
variable {s t u : State}

theorem InFlight.refl (hi : EngineInv s) (ha : s.dstate = .armed) : InFlight s s :=
  ⟨hi, ha, rfl, rfl, ⟨[], by simp⟩, fun _ hw => ⟨⟨rfl, rfl⟩, hw, id⟩⟩

theorem InFlight.trans (h : InFlight s t) (h' : InFlight t u) : InFlight s u where
  inv := h'.inv
  armed := h'.armed
  cbFn := h'.cbFn.trans h.cbFn
  cbLine := h'.cbLine.trans h.cbLine
  trace := by
    obtain ⟨a, ha, during⟩ := h.trace
    obtain ⟨b, hb, during'⟩ := h'.trace
    exact ⟨a ++ b, by rw [hb, ha, List.append_assoc], List.forall_mem_append.2 ⟨during, during'⟩⟩
  thread := fun hw hn => by
    obtain ⟨stays, unlifted, holds⟩ := h.thread hw hn
    obtain ⟨stays', unlifted', holds'⟩ := h'.thread (stays.atWaitcb hw) unlifted
    exact ⟨stays.trans stays', unlifted', fun e => holds' (holds e)⟩

theorem InFlight.trans_ended (h : InFlight s t) (h' : TransferEnded t u) : TransferEnded s u where
  inv := h'.inv
  idle := h'.idle
  deselected := h'.deselected
  trace := by
    obtain ⟨a, ha, during⟩ := h.trace
    obtain ⟨b, hb, during'⟩ := h'.trace
    refine ⟨a ++ b, ?_, List.forall_mem_append.2 ⟨during, during'⟩⟩
    rw [hb, ha, h.cbFn, h.cbLine, List.append_assoc s.trace]
  thread := fun hw hn => by
    obtain ⟨stays, unlifted, holds⟩ := h.thread hw hn
    obtain ⟨stays', lifts⟩ := h'.thread (stays.atWaitcb hw) unlifted
    exact ⟨stays.trans stays', fun e => lifts (holds e)⟩

/-- The handler ends the transfer (43 R214). -/
theorem transferEnded_of_pending (hi : EngineInv s) (hp : s.irqPending = true) (turns : List Turn) :
    TransferEnded s (irqHandler { s with turns := turns }) := by
  have inv : EngineInv (irqHandler { s with turns := turns }) := EngineInv.irqHandler { hi with }
  rw [irqHandler_of_pending (s := { s with turns := turns }) hp] at inv ⊢
  refine ⟨inv, rfl, rfl, ⟨[], by simp [State.trace], nofun⟩, fun _ _ => ⟨⟨rfl, rfl⟩, fun hw => ?_⟩⟩
  rw [hw]
  rfl

/-- The events of one step of a transfer that goes on. -/
theorem TransferStep.events (h : TransferStep s t) (ha : t.dstate = .armed) :
    ∃ events, t.trace = s.trace ++ events ∧ ∀ e ∈ events, e.duringTransfer = true := by
  have one : ∀ e : Event, t.traceRev = e :: s.traceRev → e.duringTransfer = true →
      ∃ events, t.trace = s.trace ++ events ∧ ∀ e ∈ events, e.duringTransfer = true :=
    fun e ht he => ⟨[e], by simp [State.trace, ht], by simpa using he⟩
  cases h with
  | passes same =>
    obtain ht | ⟨v, ht⟩ := same.trace
    · exact ⟨[], by simp [State.trace, ht], nofun⟩
    · exact one _ ht rfl
  | reads _ _ _ e => exact one _ (by rw [e]) rfl
  | sends _ _ _ _ _ e => exact one _ (by rw [e]) rfl
  | raises _ _ _ e => exact one _ (by rw [e]) rfl
  | ends _ _ _ e =>
    subst e
    cases ha

/-- A thread at a WAITCB that is not lifted stays there as long as the transfer is armed. -/
theorem thread_in_flight (hi : EngineInv s) (ha : s.dstate = .armed) (h : step s = .next t) (ht : t.dstate = .armed)
    (hw : AtWaitcb s) (hn : s.wait ≠ .lifted) :
    ThreadStays s t ∧ t.wait ≠ .lifted ∧ (s.wait = .holding → t.wait = .holding) := by
  by_cases host : (takeTurn s).1 = .host
  · obtain ⟨-, hl | hd⟩ | ⟨-, stays, holds⟩ := thread_of_host_turn hi hw h host
    · exact absurd hl hn
    · exact absurd (ha.symm.trans hd) nofun
    · exact ⟨stays, by simp [holds], fun _ => holds⟩
  · obtain ⟨stays, wait | ⟨hd, -⟩⟩ := thread_of_other_turn hi h host
    · exact ⟨stays, wait ▸ hn, fun e => wait.trans e⟩
    · exact absurd (ht.symm.trans hd) nofun

theorem inFlight_of_step (hi : EngineInv s) (ha : s.dstate = .armed) (h : step s = .next t) (ht : t.dstate = .armed) :
    InFlight s t := by
  obtain ⟨-, -, -, -, binding⟩ := bindingAndDescriptorStable s t h
  obtain ⟨-, fn, line, -⟩ := binding ha
  exact ⟨stepKeepsInv s t hi h, ht, fn, line, (transferStep_of_step hi ha h).events ht,
    thread_in_flight hi ha h ht⟩

/-! Weak fairness ends a transfer (43 R215; 70 R291). -/

/-- During a transfer one of the three agents is enabled (43 R211 to R214). -/
theorem exists_enabled (ha : s.dstate = .armed) (hq : 1 ≤ s.cfg.fifoDepth) :
    ∃ a : Agent, a.enabled s = true := by
  cases hp : s.irqPending with
  | true => exact ⟨.irq, by simp [Agent.enabled, hp]⟩
  | false =>
    by_cases hf : s.fifo = []
    · by_cases hr : s.tdRem = 0#32
      · exact ⟨.irq, by simp [Agent.enabled, dmaDoneEnabled_iff.2 ⟨ha, hr, hf, hp⟩]⟩
      · exact ⟨.dma, dmaPushEnabled_iff.2 ⟨ha, hr, by simpa [hf] using Nat.lt_of_lt_of_le Nat.zero_lt_one hq⟩⟩
    · exact ⟨.shifter, by simpa [Agent.enabled] using hf⟩

theorem SameTransfer.work (h : SameTransfer s t) : transferWork t = transferWork s := by
  simp [transferWork, h.tdRem, h.fifo, h.irqPending]

theorem SameTransfer.enabled (h : SameTransfer s t) (a : Agent) : a.enabled t = a.enabled s := by
  cases a <;>
    simp [Agent.enabled, dmaPushEnabled, dmaDoneEnabled, dataRequest, h.dstate, h.tdRem, h.fifo, h.irqPending, h.cfg]

/-- A step at which no agent of the transfer acts leaves the transfer where it is. -/
theorem TransferStep.passes_of_no_act (h : TransferStep s t) (hn : ∀ a : Agent, ¬a.acts s = true) : SameTransfer s t := by
  cases h with
  | passes same => exact same
  | reads _ turn enabled => exact absurd (by simp [Agent.acts, turn, enabled]) (hn .dma)
  | sends _ _ _ turn hf => exact absurd (by simp [Agent.acts, turn, hf]) (hn .shifter)
  | raises _ turn enabled => exact absurd (by simp [Agent.acts, turn, enabled]) (hn .irq)
  | ends _ turn hp => exact absurd (by simp [Agent.acts, turn, hp]) (hn .irq)

/-- A step at which an agent acts ends the transfer, or leaves less of it to be done. -/
theorem TransferStep.work_of_act (h : TransferStep s t) (ha : s.dstate = .armed) {a : Agent} (acts : a.acts s = true) :
    (t.dstate = .armed ∧ transferWork t < transferWork s) ∨
      s.irqPending = true ∧ ∃ turns, t = irqHandler { s with turns := turns } := by
  cases h with
  | passes _ idle => simp [idle a] at acts
  | reads turns _ enabled e =>
    obtain ⟨-, hr, -⟩ := dmaPushEnabled_iff.1 enabled
    have less : (s.tdRem - 1#32).toNat + 1 = s.tdRem.toNat := by bv_omega
    subst e
    refine .inl ⟨ha, ?_⟩
    simp only [transferWork, List.length_append, List.length_singleton]
    omega
  | sends turns v rest _ hf e =>
    subst e
    refine .inl ⟨ha, ?_⟩
    simp only [transferWork, hf, List.length_cons]
    omega
  | raises turns _ enabled e =>
    obtain ⟨-, -, -, hp⟩ := dmaDoneEnabled_iff.1 enabled
    subst e
    exact .inl ⟨ha, by simp [transferWork, hp]⟩
  | ends turns _ hp e => exact .inr ⟨hp, turns, e.trans (irqHandler_of_pending (s := { s with turns := turns }) hp).symm⟩

/-- In a weakly fair run an agent acts on the transfer, before which the transfer stays where it is: else the agent
that is enabled would stay so for ever. -/
theorem exists_act (hi : EngineInv s) (ha : s.dstate = .armed) (hq : 1 ≤ s.cfg.fifoDepth) (fair : WeaklyFair s) :
    ∃ k u, Reaches s k u ∧ InFlight s u ∧ transferWork u = transferWork s ∧ ∃ a : Agent, a.acts u = true := by
  by_contra stuck
  push Not at stuck
  obtain ⟨a, enabled⟩ := exists_enabled ha hq
  have stalled : ∀ k, ∃ u, Reaches s k u ∧ InFlight s u ∧ transferWork u = transferWork s ∧ a.enabled u = true := by
    intro k
    induction k with
    | zero => exact ⟨s, reaches_zero.2 rfl, .refl hi ha, rfl, enabled⟩
    | succ k ih =>
      obtain ⟨u, hu, flight, work, enabled⟩ := ih
      obtain ⟨t, ht⟩ := flight.inv.step_next
      have same := (transferStep_of_step flight.inv flight.armed ht).passes_of_no_act (stuck k u hu flight work)
      have armed := same.dstate.trans flight.armed
      exact ⟨t, reaches_add.2 ⟨u, hu, reaches_one ht⟩, flight.trans (inFlight_of_step flight.inv flight.armed ht armed),
        same.work.trans work, (same.enabled a).trans enabled⟩
  obtain ⟨k, -, u, hu, acts⟩ := fair a 0 fun k _ => by
    obtain ⟨u, hu, -, -, enabled⟩ := stalled k
    exact ⟨u, hu, enabled⟩
  obtain ⟨w, hw, flight, work, -⟩ := stalled k
  exact stuck k u hu (reaches_unique hw hu ▸ flight) (reaches_unique hw hu ▸ work) a acts

/-- Every weakly fair run ends an armed transfer: each act leaves less to be done. -/
theorem transfer_ends (hi : EngineInv s) (ha : s.dstate = .armed) (hq : 1 ≤ s.cfg.fifoDepth) (fair : WeaklyFair s) :
    ∃ k t, Reaches s k t ∧ TransferEnded s t := by
  induction hwork : transferWork s using Nat.strong_induction_on generalizing s with
  | _ n ih =>
    obtain ⟨k, u, hu, flight, work, a, acts⟩ := exists_act hi ha hq fair
    obtain ⟨v, hv⟩ := flight.inv.step_next
    have reached : Reaches s (k + 1) v := reaches_add.2 ⟨u, hu, reaches_one hv⟩
    obtain ⟨armed, less⟩ | ⟨hp, turns, rfl⟩ := (transferStep_of_step flight.inv flight.armed hv).work_of_act flight.armed acts
    · have flight := flight.trans (inFlight_of_step flight.inv flight.armed hv armed)
      obtain ⟨m, t, ht, ended⟩ := ih (transferWork v) (by omega) flight.inv armed (cfg_of_reaches reached ▸ hq)
        (fair.of_reaches reached) rfl
      exact ⟨k + 1 + m, t, reaches_add.2 ⟨v, reached, ht⟩, flight.trans_ended ended⟩
    · exact ⟨k + 1, _, reached, flight.trans_ended (transferEnded_of_pending flight.inv hp turns)⟩

/-! WAITCB returns (43 R209). -/

section
variable (hi : EngineInv s) (hq : 1 ≤ s.cfg.fifoDepth) (fair : WeaklyFair s) (recurs : HostRecurs s) (hw : AtWaitcb s)
include hi recurs hw

theorem waitcb_returns_of_lifted (hl : s.wait = .lifted) : ∃ k t, Reaches s k t ∧ WaitcbReturned s t := by
  obtain ⟨k, -, u, hu, host⟩ := recurs 0
  obtain ⟨j, t, ht, returned | ⟨hn, -⟩⟩ := returns_or_holds hi hw (by simp [hl]) hu host
  · exact ⟨j, t, ht, returned⟩
  · exact absurd hl hn

include hq fair

/-- One that holds is lifted by the handler of the transfer it waits for. -/
theorem waitcb_returns_of_holding (hh : s.wait = .holding) : ∃ k t, Reaches s k t ∧ WaitcbReturned s t := by
  obtain ⟨k, u, hu, ended⟩ := transfer_ends hi (hi.thread_holds hh) hq fair
  obtain ⟨stays, lifts⟩ := ended.thread hw (by simp [hh])
  obtain ⟨m, t, ht, returned⟩ :=
    waitcb_returns_of_lifted ended.inv (recurs.of_reaches hu) (stays.atWaitcb hw) (lifts hh)
  exact ⟨k + m, t, reaches_add.2 ⟨u, hu, ht⟩, stays.returned returned⟩

/-- One that is yet to be issued returns at once, or holds; the callback may have armed another transfer. -/
theorem waitcb_returns : ∃ k t, Reaches s k t ∧ WaitcbReturned s t := by
  cases hwait : s.wait with
  | lifted => exact waitcb_returns_of_lifted hi recurs hw hwait
  | holding => exact waitcb_returns_of_holding hi hq fair recurs hw hwait
  | none =>
    obtain ⟨k, -, u, hu, host⟩ := recurs 0
    obtain ⟨j, v, hv, returned | ⟨-, stays, holds⟩⟩ := returns_or_holds hi hw (by simp [hwait]) hu host
    · exact ⟨j, v, hv, returned⟩
    · obtain ⟨m, t, ht, returned⟩ := waitcb_returns_of_holding (hi.of_reaches hv) (cfg_of_reaches hv ▸ hq)
        (fair.of_reaches hv) (recurs.of_reaches hv) (stays.atWaitcb hw) holds
      exact ⟨j + m, t, reaches_add.2 ⟨v, hv, ht⟩, stays.returned returned⟩

end

/-! A round of the three agents' turns (43 R211 to R214). -/

/-- The turns of the DMA, the SHIFTER and the IRQ agent, each once. -/
def agentRound : List Turn :=
  [.dmaPush, .shift, .dmaDone, .irqHandler]

/-- The elements and words that have not been sent. -/
def unsent (s : State) : Nat :=
  s.tdRem.toNat + s.fifo.length

/-- From `s` to `t` the transfer stays armed and the schedule stays. -/
def KeepsRound (s t : State) : Prop :=
  t.dstate = s.dstate ∧ t.turns = s.turns ∧ t.cycle = s.cycle

/-- After the DMA's turn a word waits, unless every element has been read. -/
theorem dmaPush_feeds (ha : s.dstate = .armed) (hq : 1 ≤ s.cfg.fifoDepth) :
    KeepsRound s (dmaPush s) ∧ unsent (dmaPush s) = unsent s ∧ ((dmaPush s).fifo = [] → (dmaPush s).tdRem = 0#32) := by
  by_cases enabled : dmaPushEnabled s = true
  · obtain ⟨-, hr, -⟩ := dmaPushEnabled_iff.1 enabled
    rw [dmaPush_of_enabled enabled]
    refine ⟨⟨rfl, rfl, rfl⟩, ?_, fun hf => absurd hf (by simp)⟩
    have less : (s.tdRem - 1#32).toNat + 1 = s.tdRem.toNat := by bv_omega
    simp only [unsent, List.length_append, List.length_singleton]
    omega
  · rw [dmaPush_of_not_enabled enabled]
    refine ⟨⟨rfl, rfl, rfl⟩, rfl, fun hf => ?_⟩
    by_contra hr
    exact enabled (dmaPushEnabled_iff.2 ⟨ha, hr, hf ▸ hq⟩)

/-- The SHIFTER sends a word, if one waits. -/
theorem shiftTurn_sends (hi : EngineInv s) (ha : s.dstate = .armed) (hf : s.fifo = [] → s.tdRem = 0#32) :
    ∃ t, shiftTurn exec s = .next t ∧ KeepsRound s t ∧ unsent t = unsent s - 1 := by
  cases hq : s.fifo with
  | nil => exact ⟨s, shiftTurn_of_nil hq, ⟨rfl, rfl, rfl⟩, by simp [unsent, hq, hf hq]⟩
  | cons v rest =>
    have low := hi.selected_of_armed ha
    exact ⟨_, shiftTurn_of_selected hq low (hi.selected_pixels low).1, ⟨rfl, rfl, rfl⟩, by simp [unsent, hq]⟩

/-- With nothing left to send the condition is pending after `DmaDone`. -/
theorem dmaDone_raises (ha : s.dstate = .armed) :
    KeepsRound s (dmaDone s) ∧ unsent (dmaDone s) = unsent s ∧ (unsent s = 0 → (dmaDone s).irqPending = true) := by
  by_cases enabled : dmaDoneEnabled s = true
  · rw [dmaDone_of_enabled enabled]
    exact ⟨⟨rfl, rfl, rfl⟩, rfl, fun _ => rfl⟩
  · rw [dmaDone_of_not_enabled enabled]
    refine ⟨⟨rfl, rfl, rfl⟩, rfl, fun sent => ?_⟩
    obtain ⟨hr, hf⟩ := Nat.add_eq_zero_iff.1 sent
    by_contra hp
    exact enabled (dmaDoneEnabled_iff.2 ⟨ha, BitVec.eq_of_toNat_eq hr, List.length_eq_zero_iff.1 hf, by simpa using hp⟩)

/-- A round ends the transfer, or leaves less to be sent. -/
theorem transfer_round (hi : EngineInv s) (ha : s.dstate = .armed) (hq : 1 ≤ s.cfg.fifoDepth) (ht : s.turns = [])
    (hc : s.cycle = agentRound) :
    ∃ t, Reaches s 4 t ∧
      (TransferEnded s t ∨ InFlight s t ∧ t.turns = [] ∧ t.cycle = agentRound ∧ unsent t < unsent s) := by
  have push : step s = .next (dmaPush { s with turns := [.shift, .dmaDone, .irqHandler] }) := step_of_round ht hc
  obtain ⟨⟨d1, t1, c1⟩, unsent1, fed⟩ := dmaPush_feeds (s := { s with turns := [.shift, .dmaDone, .irqHandler] }) ha hq
  generalize dmaPush { s with turns := [.shift, .dmaDone, .irqHandler] } = s1 at push d1 t1 c1 unsent1 fed
  have flight1 := inFlight_of_step hi ha push (d1.trans ha)
  obtain ⟨s2, shifted, ⟨d2, t2, c2⟩, unsent2⟩ := shiftTurn_sends (s := { s1 with turns := [.dmaDone, .irqHandler] })
    { flight1.inv with } flight1.armed fed
  have shift : step s1 = .next s2 := (step_of_turn t1).trans shifted
  have flight2 := inFlight_of_step flight1.inv flight1.armed shift (d2.trans flight1.armed)
  have done : step s2 = .next (dmaDone { s2 with turns := [.irqHandler] }) := step_of_turn t2
  obtain ⟨⟨d3, t3, c3⟩, unsent3, raised⟩ := dmaDone_raises (s := { s2 with turns := [.irqHandler] }) flight2.armed
  generalize dmaDone { s2 with turns := [.irqHandler] } = s3 at done d3 t3 c3 unsent3 raised
  have flight3 := inFlight_of_step flight2.inv flight2.armed done (d3.trans flight2.armed)
  have flight := (flight1.trans flight2).trans flight3
  have handle : step s3 = .next (irqHandler { s3 with turns := [] }) := step_of_turn t3
  refine ⟨_, reaches_succ.2 ⟨s1, push, reaches_succ.2 ⟨s2, shift, reaches_succ.2 ⟨s3, done, reaches_one handle⟩⟩⟩, ?_⟩
  by_cases hp : s3.irqPending = true
  · exact .inl (flight.trans_ended (transferEnded_of_pending flight3.inv hp []))
  · rw [irqHandler_of_not_pending (s := { s3 with turns := [] }) (by simpa using hp)] at handle ⊢
    refine .inr ⟨flight.trans (inFlight_of_step flight3.inv flight3.armed handle flight3.armed), rfl,
      c3.trans (c2.trans (c1.trans hc)), ?_⟩
    have left : unsent s2 ≠ 0 := fun sent => hp (raised sent)
    have sent : unsent s2 = unsent s1 - 1 := unsent2
    calc unsent s3 = unsent s2 := unsent3
      _ < unsent s1 := by omega
      _ = unsent s := unsent1

/-- Under the round the transfer ends before a round more than there is to be sent is over. -/
theorem transfer_ends_in_rounds (hi : EngineInv s) (ha : s.dstate = .armed) (hq : 1 ≤ s.cfg.fifoDepth)
    (ht : s.turns = []) (hc : s.cycle = agentRound) :
    ∃ k ≤ 4 * (unsent s + 1), ∃ t, Reaches s k t ∧ TransferEnded s t := by
  induction hn : unsent s using Nat.strong_induction_on generalizing s with
  | _ n ih =>
    obtain ⟨u, hu, ended | ⟨flight, turns, cycle, less⟩⟩ := transfer_round hi ha hq ht hc
    · exact ⟨4, by omega, u, hu, ended⟩
    · obtain ⟨k, hk, t, hkt, ended⟩ := ih (unsent u) (by omega) flight.inv flight.armed (cfg_of_reaches hu ▸ hq) turns
        cycle rfl
      exact ⟨4 + k, by omega, t, reaches_add.2 ⟨u, hu, hkt⟩, flight.trans_ended ended⟩

end

/-- Settles O59: each round leaves less to be sent; in a weakly fair run each act leaves less to be done; and WAITCB
returns after the handler has lifted it, or at the thread's next turn. -/
theorem fairRoundsEndTransfer : Obligations.FairRoundsEndTransfer := by
  intro s hi hq ha
  refine ⟨fun ht hc => ?_, fun fair => ⟨?_, fun rest hp recurs => ?_⟩⟩
  · obtain ⟨k, hk, t, hkt, ended⟩ := transfer_ends_in_rounds hi ha hq ht hc
    obtain ⟨events, trace, -⟩ := ended.trace
    refine ⟨k, hk.trans (by simp only [unsent]; omega), t, hkt, ended.idle, ended.deselected, ?_⟩
    rw [← List.reverse_reverse t.traceRev, ← State.trace, trace]
    simp
  · obtain ⟨k, t, hkt, ended⟩ := transfer_ends hi ha hq fair
    obtain ⟨events, trace, during⟩ := ended.trace
    exact ⟨k, t, events, hkt, ended.idle, ended.deselected, trace, during⟩
  · have waits : AtWaitcb s := ⟨rest, hp⟩
    by_cases hl : s.wait = .lifted
    · obtain ⟨k, t, hkt, cpc, wait⟩ := waitcb_returns_of_lifted hi recurs waits hl
      obtain ⟨events, trace⟩ := trace_grows_of_reaches hi hkt
      exact ⟨k, t, events, hkt, cpc, wait, trace, fun hn => absurd hl hn⟩
    · obtain ⟨k, u, hku, ended⟩ := transfer_ends hi ha hq fair
      obtain ⟨stays, -⟩ := ended.thread waits hl
      obtain ⟨m, t, hmt, returned⟩ := waitcb_returns ended.inv (cfg_of_reaches hku ▸ hq) (fair.of_reaches hku)
        (HostRecurs.of_reaches recurs hku) (stays.atWaitcb waits)
      obtain ⟨cpc, wait⟩ := stays.returned returned
      obtain ⟨events, trace, -⟩ := ended.trace
      obtain ⟨later, trace'⟩ := trace_grows_of_reaches ended.inv hmt
      refine ⟨k + m, t, events ++ [.pin .cs .high, .irqClear s.cbLine, .callback s.cbFn] ++ later,
        reaches_add.2 ⟨u, hku, hmt⟩, cpc, wait, ?_, fun _ => by simp⟩
      simp [trace', trace]

end Sys2Proof.Machine
end

section
/-!
PROOFS. The family of 60_exceptions: that a command is rejected with its record alone or runs and records nothing, the
order of its checks, the row of violations each command has, the first error kept, and that no step stops.
-/

namespace Sys2Proof.Machine

/-! What an operation appends to the trace: never a FAULT (60 R243). -/

/-- From `s` to `t` the trace gains only events that record no violation. -/
def GainsNoFault (s t : State) : Prop :=
  ∃ new, t.traceRev = new ++ s.traceRev ∧ ∀ e ∈ new, e.isViolation = false

section
variable {s t u : State}

theorem GainsNoFault.refl (s : State) : GainsNoFault s s :=
  ⟨[], rfl, nofun⟩

/-- A FAULT event is more than such events. -/
theorem GainsNoFault.ne_violation_cons (h : GainsNoFault s t) (v : Violation) :
    t.traceRev ≠ .violation v :: s.traceRev := by
  obtain ⟨new, gained, quiet⟩ := h
  intro hv
  have only : new = [.violation v] := List.append_cancel_right (gained.symm.trans hv)
  exact absurd (quiet (.violation v) (by simp [only])) nofun

theorem GainsNoFault.of_trace (h : GainsNoFault s t) (hu : u.traceRev = t.traceRev) : GainsNoFault s u := by
  obtain ⟨new, gained, quiet⟩ := h
  exact ⟨new, hu.trans gained, quiet⟩

/-- One event more that records no violation. -/
theorem GainsNoFault.event (h : GainsNoFault s t) {e : Event} (hu : u.traceRev = e :: t.traceRev)
    (he : e.isViolation = false) : GainsNoFault s u := by
  obtain ⟨new, gained, quiet⟩ := h
  exact ⟨e :: new, by rw [hu, gained, List.cons_append], List.forall_mem_cons.2 ⟨he, quiet⟩⟩

theorem GainsNoFault.driveCs (h : GainsNoFault s t) (l : Level) : GainsNoFault s (driveCs l t) :=
  h.event rfl rfl

theorem GainsNoFault.driveRs (h : GainsNoFault s t) (l : Level) : GainsNoFault s (driveRs l t) :=
  h.event rfl rfl

theorem GainsNoFault.driveRst (h : GainsNoFault s t) (l : Level) : GainsNoFault s (driveRst l t) :=
  h.event rfl rfl

theorem GainsNoFault.driveBl (h : GainsNoFault s t) (l : Lamp) : GainsNoFault s (driveBl l t) :=
  h.event rfl rfl

theorem GainsNoFault.driveLed (h : GainsNoFault s t) (l : Lamp) : GainsNoFault s (driveLed l t) := by
  unfold Machine.driveLed
  split
  · exact h.event rfl rfl
  · exact h

theorem GainsNoFault.delay (h : GainsNoFault s t) (ms : Nat) : GainsNoFault s (delay ms t) :=
  h.event rfl rfl

theorem GainsNoFault.memRead (h : GainsNoFault s t) (a : Nat) : GainsNoFault s (memRead a t) :=
  h.event rfl rfl

theorem GainsNoFault.shiftOut (h : GainsNoFault s t) (v : Word) : GainsNoFault s (shiftOut v t) :=
  h.event rfl rfl

theorem GainsNoFault.receiveWord (h : GainsNoFault s t) (v : Word) : GainsNoFault s (receiveWord v t) :=
  h.event rfl rfl

theorem GainsNoFault.shiftAll (h : GainsNoFault s t) (ws : List Word) : GainsNoFault s (shiftAll ws t) := by
  induction ws generalizing t with
  | nil => exact h
  | cons v rest ih => exact ih (h.shiftOut v)

theorem GainsNoFault.tx (h : GainsNoFault s t) (w : Word) : GainsNoFault s (tx w t) :=
  GainsNoFault.shiftAll (t := { t with fifo := [] }) h _

theorem GainsNoFault.rx (h : GainsNoFault s t) : GainsNoFault s (rx t) :=
  GainsNoFault.receiveWord (t := { t with draws := t.draws + 1 }) h _

theorem GainsNoFault.indexFrame (h : GainsNoFault s t) (a : Byte) : GainsNoFault s (indexFrame a t) :=
  (((h.driveRs .low).driveCs .low).tx _).driveCs .high

theorem GainsNoFault.dataFrame (h : GainsNoFault s t) (v : Word) : GainsNoFault s (dataFrame v t) :=
  (((h.driveRs .high).driveCs .low).tx v).driveCs .high

theorem GainsNoFault.writeRegister (h : GainsNoFault s t) (a : Byte) (v : Word) :
    GainsNoFault s (writeRegister a v t) :=
  (h.indexFrame a).dataFrame v

theorem GainsNoFault.writeRegisters (h : GainsNoFault s t) (table : List (Byte × Word)) :
    GainsNoFault s (writeRegisters table t) := by
  induction table generalizing t with
  | nil => exact h
  | cons p rest ih => exact ih (h.writeRegister p.1 p.2)

theorem GainsNoFault.readRegister (h : GainsNoFault s t) (a : Byte) : GainsNoFault s (readRegister a t) :=
  ((((h.indexFrame a).driveRs .high).driveCs .low).rx).driveCs .high

theorem GainsNoFault.openBurst (h : GainsNoFault s t) : GainsNoFault s (openBurst t) :=
  ((h.indexFrame _).driveRs .high).driveCs .low

theorem GainsNoFault.closeBurst (h : GainsNoFault s t) : GainsNoFault s (closeBurst t) :=
  h.driveCs .high

theorem GainsNoFault.txRepeat (h : GainsNoFault s t) (n : Nat) (w : Word) : GainsNoFault s (txRepeat n w t) := by
  induction n generalizing t with
  | zero => exact h
  | succ n ih => exact ih (h.tx w)

theorem GainsNoFault.txBuffer (h : GainsNoFault s t) (n a : Nat) : GainsNoFault s (txBuffer n a t) := by
  induction n generalizing a t with
  | zero => exact h
  | succ n ih => exact ih ((h.memRead a).tx _) _

theorem GainsNoFault.setWindow (h : GainsNoFault s t) (win : Window) : GainsNoFault s (setWindow win t) :=
  h.writeRegisters _

theorem GainsNoFault.fillRectangle (ht : GainsNoFault s t) (x y w h color : Word) :
    GainsNoFault s (fillRectangle x y w h color t) :=
  ((ht.setWindow _).openBurst.txRepeat _ color).closeBurst

theorem GainsNoFault.sendBuffer (h : GainsNoFault s t) (src : DWord) (n : Nat) :
    GainsNoFault s (sendBuffer src n t) :=
  (h.openBurst.txBuffer n _).closeBurst

theorem GainsNoFault.blitRectangle (ht : GainsNoFault s t) (x y w h : Word) (src : DWord) :
    GainsNoFault s (blitRectangle x y w h src t) :=
  (ht.setWindow _).sendBuffer src _

theorem GainsNoFault.startTransfer (h : GainsNoFault s t) (src n : DWord) : GainsNoFault s (startTransfer src n t) :=
  h.openBurst.event rfl rfl

theorem GainsNoFault.initPinArm (h : GainsNoFault s t) : GainsNoFault s (initPinArm t) :=
  (((((h.driveRst .high).driveCs .high).driveRs .low).driveBl .off).driveLed .off).delay 1

theorem GainsNoFault.initResetPulse (h : GainsNoFault s t) : GainsNoFault s (initResetPulse t) :=
  (((h.driveRst .low).delay 10).driveRst .high).delay 50

theorem GainsNoFault.initPowerZero (h : GainsNoFault s t) : GainsNoFault s (initPowerZero t) :=
  (h.writeRegisters _).delay 40

theorem GainsNoFault.initPowerOn (h : GainsNoFault s t) : GainsNoFault s (initPowerOn t) :=
  (h.writeRegisters _).delay 10

theorem GainsNoFault.initBooster (h : GainsNoFault s t) : GainsNoFault s (initBooster t) :=
  (h.writeRegister _ _).delay 50

theorem GainsNoFault.initConfigTable (h : GainsNoFault s t) : GainsNoFault s (initConfigTable t) :=
  (h.writeRegisters _).delay 50

theorem GainsNoFault.initDisplayOn (h : GainsNoFault s t) : GainsNoFault s (initDisplayOn t) :=
  (h.writeRegister _ _).delay 50

theorem GainsNoFault.initBacklightOn (h : GainsNoFault s t) : GainsNoFault s (initBacklightOn t) :=
  (h.driveBl .on).driveLed .on

theorem GainsNoFault.configureDescriptor (h : GainsNoFault s t) : GainsNoFault s (configureDescriptor t) :=
  h.of_trace rfl

theorem GainsNoFault.initSequence (h : GainsNoFault s t) : GainsNoFault s (initSequence t) :=
  have reset := h.initPinArm.initResetPulse
  have tables := reset.initPowerZero.initPowerOn.initBooster.initConfigTable.initDisplayOn
  tables.initBacklightOn.configureDescriptor

theorem GainsNoFault.initIdCheck (h : GainsNoFault s t) : GainsNoFault s (initIdCheck t) := by
  obtain ⟨-, e⟩ | ⟨-, r, e⟩ := initIdCheck_cases t
  · exact h.of_trace (by rw [e])
  · exact (h.readRegister _).of_trace (by rw [e])

/-! What an instruction records (60 R242, R243). -/

theorem exec_waitcb (s : State) : exec .waitcb s = checked (admission .waiting s) (fun t => t) s := rfl

/-- A checked command records a violation of the list and nothing else, or has its effect. -/
theorem recorded_of_checked {i : Instr} {l : List Violation} {o : Option Violation} {effect : State → State}
    (he : exec i s = checked o effect s) (h : exec i s = .next t) (ho : RaisesOnly l o)
    (hg : GainsNoFault s (effect s)) : (∃ v ∈ l, t = raise v s) ∨ GainsNoFault s t := by
  obtain ⟨v, hv, rfl⟩ | ⟨-, rfl⟩ := checked_cases (he ▸ h)
  · exact .inl ⟨v, ho v hv, rfl⟩
  · exact .inr hg

/-- PXWORD has a precondition of its own besides its check: CS low (00_scope R12). -/
theorem pxword_recorded {w : Word} (h : exec (.pxword w) s = .next t) :
    (∃ v ∈ canRaise (.pxword w), t = raise v s) ∨ GainsNoFault s t := by
  cases ha : admission .inFrame s with
  | some v =>
    obtain rfl := Host.Outcome.next.inj ((exec_pxword_of_rejected ha w).symm.trans h)
    exact .inl ⟨v, raisesOnly_inFrame s (by simp [canRaise]) (by simp [canRaise]) v ha, rfl⟩
  | none =>
    obtain ⟨-, rfl⟩ := whileSelected_cases ((exec_pxword_of_admitted ha w).symm.trans h)
    exact .inr ((GainsNoFault.refl s).tx w)

/-- An instruction is rejected with a violation of its row of 60 R242, or no FAULT is appended. -/
theorem exec_recorded {i : Instr} (h : exec i s = .next t) :
    (∃ v ∈ canRaise i, t = raise v s) ∨ GainsNoFault s t := by
  have quiet := GainsNoFault.refl s
  cases i with
  | wridx a => exact recorded_of_checked rfl h (raisesOnly_ordinary s) (quiet.indexFrame a)
  | wrdat v => exact recorded_of_checked rfl h (raisesOnly_ordinary s) (quiet.dataFrame v)
  | setreg a v => exact recorded_of_checked rfl h (raisesOnly_ordinary s) (quiet.writeRegister a v)
  | getreg a =>
    exact recorded_of_checked rfl h ((raisesOnly_require _).or (raisesOnly_ordinary s)) (quiet.readRegister a)
  | setwin hs he vs ve =>
    exact recorded_of_checked rfl h ((raisesOnly_ordinary s).or (raisesOnly_require _)) (quiet.setWindow _)
  | setaddr x y => exact recorded_of_checked rfl h (raisesOnly_ordinary s) (quiet.writeRegisters _)
  | pxstart =>
    exact recorded_of_checked (exec_pxstart s) h (raisesOnly_ordinary s) (quiet.openBurst.of_trace rfl)
  | pxword w => exact pxword_recorded h
  | pxend => exact recorded_of_checked (exec_pxend s) h (raisesOnly_inFrame s) (quiet.closeBurst.of_trace rfl)
  | wrpix src n =>
    exact recorded_of_checked rfl h ((raisesOnly_ordinary s).or (raisesOnly_require _)) (quiet.sendBuffer src _)
  | dmawr src n =>
    exact recorded_of_checked rfl h
      ((((raisesOnly_ordinary s).or (raisesOnly_require _)).or (raisesOnly_require _)).or (raisesOnly_require _))
      (quiet.startTransfer src n)
  | fill color => exact recorded_of_checked rfl h (raisesOnly_ordinary s) (quiet.fillRectangle _ _ _ _ color)
  | fillrect x y w h' color =>
    exact recorded_of_checked rfl h ((raisesOnly_ordinary s).or (raisesOnly_require _))
      (quiet.fillRectangle x y w h' color)
  | blit x y w h' src =>
    exact recorded_of_checked (exec_blit ..) h
      ((raisesOnly_ordinary s).or ((raisesOnly_require _).or (raisesOnly_require _)))
      (quiet.blitRectangle x y w h' src)
  | init => exact recorded_of_checked (exec_init s) h (raisesOnly_ordinary s) quiet.initSequence.initIdCheck
  | setcb line fn =>
    exact recorded_of_checked (exec_setcb ..) h ((raisesOnly_ordinary s).or (raisesOnly_require _))
      (quiet.of_trace rfl)
  | waitcb => exact recorded_of_checked (exec_waitcb s) h (raisesOnly_require _) quiet
  | wIdx a =>
    obtain ⟨-, -, rfl⟩ := execWIdx_cases h
    exact .inr (quiet.shiftOut _)
  | wDat d =>
    obtain ⟨-, -, rfl⟩ := execWDat_cases h
    exact .inr (quiet.shiftOut d)
  | wRd v =>
    obtain ⟨-, -, -, rfl⟩ := execWRd_cases h
    exact .inr (quiet.receiveWord v)

end

/-- Settles O42: what an instruction records, with what it does to the fault registers (`exec_faults`). -/
theorem rejectedWithoutEffect : Obligations.RejectedWithoutEffect := by
  refine ⟨fun v s => ?_, fun i s t h => ?_⟩
  · cases he : s.err <;> simp [raise, emit, he]
  · obtain ⟨v, -, rfl⟩ | gains := exec_recorded h
    · exact .inl ⟨v, rfl⟩
    · obtain ⟨err, code⟩ | ⟨v, -, rfl⟩ := exec_faults h
      · exact .inr ⟨err, code, gains⟩
      · exact .inl ⟨v, rfl⟩

/-- Settles O44: only a rejection appends a FAULT, and it is of the row. -/
theorem raisesOnlyItsRow : Obligations.RaisesOnlyItsRow := by
  intro i s t v h ht
  obtain ⟨w, hw, rfl⟩ | gains := exec_recorded h
  · obtain rfl : w = v := by simpa using ht
    exact hw
  · exact absurd ht (gains.ne_violation_cons v)

/-! The order of the checks (60 R245, R246). -/

/-- How the admission check treats each command (60 R245). -/
def admissionKind : Instr → Admission
  | .pxword _ => .inFrame
  | .pxend => .inFrame
  | .waitcb => .waiting
  | _ => .ordinary

section
variable {i : Instr} {s : State} {v : Violation}

theorem admissionKind_of_ne_waitcb (hw : i ≠ .waitcb) : admissionKind i ≠ .waiting := by
  cases i with
  | waitcb => exact absurd rfl hw
  | _ => nofun

theorem admissionKind_ordinary (hw : i ≠ .waitcb) (hp : ∀ w, i ≠ .pxword w) (he : i ≠ .pxend) :
    admissionKind i = .ordinary := by
  cases i with
  | waitcb => exact absurd rfl hw
  | pxword w => exact absurd rfl (hp w)
  | pxend => exact absurd rfl he
  | _ => rfl

theorem admission_waiting_frame (hf : s.frameOpen = true) : admission .waiting s = some .frame := by
  simp [admission, require, hf]

/-- During a transfer every command but WAITCB is refused as busy. -/
theorem admission_busy {k : Admission} (hk : k ≠ .waiting) (hd : s.dstate ≠ .idle) : admission k s = some .busy := by
  cases k with
  | ordinary => exact admission_ordinary_busy hd
  | inFrame => exact admission_inFrame_busy hd
  | waiting => exact absurd rfl hk

theorem rejects_of_first_check {o p : Option Violation} {effect : State → State}
    (h : exec i s = checked (o.or p) effect s) (ho : o = some v) : Rejects i v s :=
  rejects_of_checked h (by rw [ho, Option.some_or])

/-- What the admission check finds is raised, whatever the operands; GETREG's feature gate apart. -/
theorem rejects_of_admission (hc : i.isCommand = true) (hg : ∀ a, i ≠ .getreg a ∨ s.cfg.readSupport = true)
    (hv : admission (admissionKind i) s = some v) : Rejects i v s := by
  cases i with
  | wridx | wrdat | setreg | setaddr | fill => exact rejects_of_checked rfl hv
  | pxstart => exact rejects_of_checked (exec_pxstart s) hv
  | pxend => exact rejects_of_checked (exec_pxend s) hv
  | init => exact rejects_of_checked (exec_init s) hv
  | waitcb => exact rejects_of_checked (exec_waitcb s) hv
  | setwin | fillrect | wrpix => exact rejects_of_first_check rfl hv
  | setcb => exact rejects_of_first_check (exec_setcb ..) hv
  | blit => exact rejects_of_first_check (exec_blit ..) hv
  | dmawr => exact rejects_of_first_check (exec_dmawr ..) hv
  | pxword w => exact exec_pxword_of_rejected hv w
  | getreg a => exact rejects_getreg_of_admission ((hg a).resolve_left (absurd rfl)) hv a
  | wIdx | wDat | wRd => cases hc

end

/-- Settles O43: the gate, then what the admission check answers in each of the four situations. -/
theorem admissionChecks : Obligations.AdmissionChecks := by
  refine ⟨fun a s hs => rejects_getreg_without_readSupport hs a, fun i s hc hg => ⟨?_, ?_, ?_, ?_⟩⟩
  · rintro rfl hf
    exact rejects_of_admission hc hg (admission_waiting_frame hf)
  · intro hw hd
    exact rejects_of_admission hc hg (admission_busy (admissionKind_of_ne_waitcb hw) hd)
  · intro hw hd hp he hf
    exact rejects_of_admission hc hg (admissionKind_ordinary hw hp he ▸ admission_ordinary_frame hd hf)
  · rintro (⟨w, rfl⟩ | rfl) hd hf
    · exact rejects_of_admission hc hg (admission_inFrame_frame hd hf)
    · exact rejects_of_admission hc hg (admission_inFrame_frame hd hf)

/-! The first error is kept (60 R241, R243). -/

/-- The table of 60 R241 read backwards. -/
def Violation.ofCode (code : Byte) : Option Violation :=
  match code.toNat with
  | 1 => some .illegal
  | 2 => some .unsupported
  | 3 => some .busy
  | 4 => some .frame
  | 5 => some .noinit
  | 6 => some .irqline
  | 7 => some .buffer
  | 8 => some .window
  | 9 => some .nocb
  | _ => none

theorem Violation.ofCode_code (v : Violation) : Violation.ofCode v.code = some v := by
  cases v <;> rfl

theorem Violation.code_injective : Function.Injective Violation.code := fun v w h =>
  Option.some.inj (by rw [← ofCode_code v, h, ofCode_code])

section
variable {s t : State}

@[simp] theorem keepsFaults_advance {c : Context} {len : Nat} :
    KeepsFaults s (advance c len t) ↔ KeepsFaults s t := by
  simp [KeepsFaults]

@[simp] theorem keepsFaults_setWait {c : Context} {w : Wait} : KeepsFaults s (setWait c w t) ↔ KeepsFaults s t := by
  simp [KeepsFaults]

theorem KeepsFaults.refl (s : State) : KeepsFaults s s :=
  ⟨rfl, rfl⟩

/-- A later violation changes neither `err` nor `err_code`. -/
theorem keepsFaults_raise (he : s.err = true) (v : Violation) : KeepsFaults s (raise v s) := by
  simp [KeepsFaults, he]

theorem keepsFaults_of_exec {i : Instr} (he : s.err = true) (h : exec i s = .next t) : KeepsFaults s t := by
  obtain kept | ⟨v, -, rfl⟩ := exec_faults h
  · exact kept
  · exact keepsFaults_raise he v

theorem keepsFaults_of_contextTurn {c : Context} (he : s.err = true) (h : contextTurn exec c s = .next t) :
    KeepsFaults s t := by
  obtain ⟨-, h⟩ | ⟨-, -, rfl⟩ | ⟨-, -, rfl⟩ := contextTurn_cases h
  · obtain ⟨-, rfl⟩ | ⟨_, len, -, rfl⟩ | ⟨i, len, u, -, hu, rfl⟩ := issueCommand_cases h
    · exact .refl t
    · exact keepsFaults_advance.2 (keepsFaults_raise he .illegal)
    · have kept := keepsFaults_of_exec he hu
      split
      · exact keepsFaults_advance.2 kept
      · exact keepsFaults_setWait.2 kept
  · exact .refl t
  · simpa [endWait] using KeepsFaults.refl s

theorem keepsFaults_of_shiftTurn (he : s.err = true) (h : shiftTurn exec s = .next t) : KeepsFaults s t := by
  obtain ⟨-, rfl⟩ | ⟨v, rest, -, ⟨i, -, h⟩ | ⟨-, rfl⟩⟩ := shiftTurn_cases h
  · exact .refl t
  · exact keepsFaults_of_exec (s := { s with fifo := rest }) he h
  · exact .refl s

theorem keepsFaults_of_panelTurn {v : Word} (he : s.err = true) (h : panelTurn exec v s = .next t) :
    KeepsFaults s t := by
  cases hp : readInProgress s with
  | true =>
    obtain ⟨-, -, hr, -⟩ := readInProgress_iff.1 hp
    exact keepsFaults_of_exec he ((panelTurn_of_read hr hp).symm.trans h)
  | false =>
    obtain rfl := Host.Outcome.next.inj ((panelTurn_of_no_read hp).symm.trans h)
    exact .refl s

theorem keepsFaults_dmaPush (s : State) : KeepsFaults s (dmaPush s) := by
  unfold dmaPush
  split <;> exact .refl s

theorem keepsFaults_dmaDone (s : State) : KeepsFaults s (dmaDone s) := by
  unfold dmaDone
  split <;> exact .refl s

theorem keepsFaults_irqHandler (s : State) : KeepsFaults s (irqHandler s) := by
  unfold irqHandler
  split <;> exact .refl s

/-- Whichever agent's turn it is. -/
theorem keepsFaults_of_runTurn {turn : Turn} (he : s.err = true) (h : runTurn exec turn s = .next t) :
    KeepsFaults s t := by
  cases turn with
  | host => exact keepsFaults_of_contextTurn he h
  | callback words => exact keepsFaults_of_contextTurn (s := extendCallback words s) he h
  | shift => exact keepsFaults_of_shiftTurn he h
  | panelDrives v => exact keepsFaults_of_panelTurn he h
  | dmaPush =>
    obtain rfl := Host.Outcome.next.inj h
    exact keepsFaults_dmaPush s
  | dmaDone =>
    obtain rfl := Host.Outcome.next.inj h
    exact keepsFaults_dmaDone s
  | irqHandler =>
    obtain rfl := Host.Outcome.next.inj h
    exact keepsFaults_irqHandler s
  | hostStore elem v =>
    obtain rfl := Host.Outcome.next.inj h
    exact .refl s

end

/-- Settles O45: the codes are the table's, which can be read backwards; no agent but the HOST's contexts records a
violation, and after the first a record changes no fault register. -/
theorem firstErrorKept : Obligations.FirstErrorKept := by
  refine ⟨⟨rfl, rfl, rfl, rfl, rfl, rfl, rfl, rfl, rfl⟩, Violation.code_range, fun _ _ h => Violation.code_injective h,
    fun s t h he => ?_⟩
  obtain ⟨rest, scheduled⟩ := takeTurn_eq s
  rw [step, scheduled] at h
  obtain ⟨err, code⟩ := keepsFaults_of_runTurn (s := { s with turns := rest }) he h
  exact ⟨err.trans he, code⟩

/-- Settles O53: every agent's turn answers a next state under the invariant, words being shifted only where CS is low
and RS high. -/
theorem stepNeverStops : Obligations.StepNeverStops :=
  fun _ hi => hi.step_next

end Sys2Proof.Machine
end
